-- ==== Sys2Proof/Word.lean ====
section
/-! DEFINITION. The two word types of the block: a byte (a slot, a command code, a port value;
00_scope.md R11, W = 8 by R6) and a 16-bit operation word (30_encoding.md R70). -/

namespace Sys2Proof

/-- A byte or a W-bit port value, W = 8 (00_scope.md R6, R11). -/
abbrev Byte := BitVec 8

/-- One operation word (30_encoding.md R70). -/
abbrev OpWord := BitVec 16

end Sys2Proof
end

