-- ==== Sys2Proof/Config.lean ====
section
/-! DEFINITION. What an implementation fixes (the configuration record of 00_scope.md R6), the command
enumeration it binds to pins (30_encoding.md R76), the refusal kinds (60_exceptions.md R202), and the free
values of 93_implementation_defined.md: opaque constants with no body, so no proof can know one. -/

namespace Sys2Proof

/-- The closed enumeration of commands, in the source's order (30_encoding.md R76). -/
inductive Command where
  | up
  | down
  | right
  | left
  | actionA
  | actionB
  | heartbeat
  deriving DecidableEq, Repr

/-- Every command, index 0 to 6 (30_encoding.md R76). -/
def Command.all : List Command := [.up, .down, .right, .left, .actionA, .actionB, .heartbeat]

/-- A binding `(mask, cmd)` of one port group (00_scope.md R6, R17). -/
structure Binding where
  /-- The pins it watches; one-hot in a well-formed configuration (R7 (c)). -/
  mask : Byte
  /-- The command a falling edge on that pin generates. -/
  cmd : Command
  deriving DecidableEq, Repr

/-- The configuration record (00_scope.md R6). `HBW` is the width of `State.hb`'s type. Nothing here is
checked: `Config.wf` (Machine/ConfigCheck.lean) is rule R7. -/
structure Config where
  /-- Number of slots of the Transmit Ring Buffer. -/
  N : Nat
  /-- Width in bits of a port read; R7 (b) allows only 8. -/
  W : Nat
  /-- Number of port groups. -/
  G : Nat
  /-- `BIND[g]`, the ordered binding list of each group. -/
  bind : List (List Binding)
  /-- Heartbeat threshold in ticks. -/
  T : Nat
  deriving DecidableEq, Repr

/-- DESIGN CHOICE (notes/assumptions/1.md), unsafe where a claim rests on it: the configuration of
`State.reset` is the spec's example EX1 with `N = 8`, `T = 1000` (00_scope.md R8). The source gives no pin map
and no capacity; no statement rests on these values. -/
def Config.reference : Config where
  N := 8
  W := 8
  G := 3
  bind := [[⟨0x01, .up⟩, ⟨0x02, .down⟩], [⟨0x01, .right⟩, ⟨0x02, .left⟩], [⟨0x01, .actionA⟩, ⟨0x02, .actionB⟩]]
  T := 1000

/-- The refusal kinds of 60_exceptions.md R202. A refused word is a mark kept for the whole run. -/
inductive RefusalKind where
  /-- `OPC` in `0x0`, `0x6..0xF`: raised by the decoder; safe. -/
  | reservedOp
  /-- A must-be-zero field is not zero: raised by the decoder; safe. -/
  | badField
  /-- PCHG with `GRP >= G`: raised by the decoder; safe. -/
  | badGroup
  /-- A configuration constraint of R7 fails; safe. -/
  | badConfig
  /-- An operation other than RST before the first RST (70_reset_and_hazards.md R240); safe. -/
  | noReset
  deriving DecidableEq, Repr

/-- U1: the contents of slot `i` after the reset with draw number `d`: any byte. Safe: a free value. -/
opaque Config.freeSlot (d i : Nat) : Byte

/-- U2: the contents of `cur[g]` after the reset with draw number `d`: any byte. Safe: a free value. -/
opaque Config.freeCur (d g : Nat) : Byte

/-- U3: the port value of group `g` read at the reset with draw number `d`, where the environment's `.seed`
supplied none: any byte. Safe: a free value. -/
opaque Config.freeSeed (d g : Nat) : Byte

/-- U5, U6: which of several enabled steps is taken at draw `d` (reduced modulo their number). Safe: a free
value. -/
opaque Config.freeChoice (d : Nat) : Nat

end Sys2Proof
end

