-- ==== Sys2Proof/Syntax.lean ====
section
/-! DEFINITION. The five operations of the block, one constructor per row of spec/opcode_table.json
(30_encoding.md R71). -/

namespace Sys2Proof

/-- An operation as the environment presents it (00_scope.md R2, 30_encoding.md R71). -/
inductive Instr where
  /-- RST: reset the block, seeds from the pins (42_heartbeat_and_system.md R162). -/
  | rst
  /-- ENQ b: producer M enqueues one byte (40_ring_buffer.md R106). -/
  | enq (b : Byte)
  /-- PCHG g, v: port-change event of group `g`, whose handler reads `v` (41_edge_monitor.md R131). `GRP` is a
  4-bit field, used as is (R72). -/
  | pchg (g : BitVec 4) (v : Byte)
  /-- TICK: one heartbeat tick for producer M (42_heartbeat_and_system.md R160). -/
  | tick
  /-- TXC: the transmit-complete event (40_ring_buffer.md R105). -/
  | txc
  deriving DecidableEq, Repr

end Sys2Proof
end

