-- ==== Sys2Proof/WellFormed.lean ====
section
/-! DEFINITION. Which operations have a word in a block of `G` port groups (30_encoding.md R71: the only
constraint beyond the fields' widths is `GRP < G`). -/

namespace Sys2Proof

/-- `i` is an operation of a block with `G` port groups: PCHG names an existing group (30_encoding.md R71). -/
def Instr.wf (G : Nat) : Instr → Bool
  | .rst => true
  | .enq _ => true
  | .pchg g _ => decide (g.toNat < G)
  | .tick => true
  | .txc => true

end Sys2Proof
end

