-- ==== Sys2Proof/Decode.lean ====
section
/-! DEFINITION. The decoder of 30_encoding.md R73, total on 16-bit words, refusing by name (R74), and the
encoder written from the same table (R71). -/

namespace Sys2Proof

/-- `OPC = w[15:12]` (30_encoding.md R70). -/
def opcField (w : OpWord) : BitVec 4 := w.extractLsb' 12 4

/-- `GRP = w[11:8]` (30_encoding.md R70). -/
def grpField (w : OpWord) : BitVec 4 := w.extractLsb' 8 4

/-- `DATA = w[7:0]` (30_encoding.md R70). -/
def dataField (w : OpWord) : Byte := w.extractLsb' 0 8

/-- A word from its three fields (30_encoding.md R70). -/
def opWord (opc grp : BitVec 4) (data : Byte) : OpWord :=
  BitVec.ofNat 16 (opc.toNat * 2 ^ 12 + grp.toNat * 2 ^ 8 + data.toNat)

/-- The decoder's rows that need `GRP = 0` and `DATA = 0` (30_encoding.md R73). -/
def decodeBare (i : Instr) (w : OpWord) : Except RefusalKind Instr :=
  if grpField w = 0 ∧ dataField w = 0 then .ok i else .error .badField

/-- The decoder's ENQ row (30_encoding.md R73). -/
def decodeEnq (w : OpWord) : Except RefusalKind Instr :=
  if grpField w = 0 then .ok (.enq (dataField w)) else .error .badField

/-- The decoder's PCHG row in a block of `G` groups (30_encoding.md R73). -/
def decodePchg (G : Nat) (w : OpWord) : Except RefusalKind Instr :=
  if (grpField w).toNat < G then .ok (.pchg (grpField w) (dataField w)) else .error .badGroup

/-- `decode(w)` of 30_encoding.md R73, in its order, for a block of `G` port groups. -/
def decode (G : Nat) (w : OpWord) : Except RefusalKind Instr :=
  match (opcField w).toNat with
  | 0x1 => decodeBare .rst w
  | 0x2 => decodeEnq w
  | 0x3 => decodePchg G w
  | 0x4 => decodeBare .tick w
  | 0x5 => decodeBare .txc w
  | _ => .error .reservedOp

/-- The operation word of an operation (30_encoding.md R71). -/
def encode : Instr → OpWord
  | .rst => opWord 0x1 0 0
  | .enq b => opWord 0x2 0 b
  | .pchg g v => opWord 0x3 g v
  | .tick => opWord 0x4 0 0
  | .txc => opWord 0x5 0 0

/-- The 16-bit word of the opcode table's bits: an operation is one word, so no byte order applies
(20_memory.md R52, 30_encoding.md R75); bits the table does not give are 0. -/
def tableWord (nbits w : Nat) : OpWord := BitVec.ofNat 16 (w % 2 ^ nbits)

/-- The operation the decoder reads from the opcode table's bits, in a block with the reference number of port
groups, `G = 3` (00_scope.md R6; notes/assumptions/15.md). -/
def decodeTableWord (nbits w : Nat) : Option Instr :=
  (decode Config.reference.G (tableWord nbits w)).toOption

end Sys2Proof
end

