-- ==== Sys2Proof/Machine/ConfigCheck.lean ====
section
/-! DEFINITION. When a configuration is well formed (00_scope.md R7); one check per constraint. -/

namespace Sys2Proof

/-- R7 (a): `2 <= N <= 256`. -/
def Config.capacityOk (c : Config) : Bool := decide (2 ≤ c.N ∧ c.N ≤ 256)

/-- R7 (b): `1 <= G <= 16`, `W = 8`; and R6: `BIND` has one list per group. -/
def Config.groupsOk (c : Config) : Bool := decide (1 ≤ c.G ∧ c.G ≤ 16 ∧ c.W = 8 ∧ c.bind.length = c.G)

/-- The one-hot masks of R7 (c). -/
def oneHotMasks : List Byte := [0x01, 0x02, 0x04, 0x08, 0x10, 0x20, 0x40, 0x80]

/-- R7 (c): every mask has exactly one bit set. -/
def Config.masksOk (c : Config) : Bool := c.bind.all fun bs => bs.all fun x => decide (x.mask ∈ oneHotMasks)

/-- R7 (d): within one group no two bindings share a mask. -/
def Config.distinctOk (c : Config) : Bool := c.bind.all fun bs => decide (bs.map Binding.mask).Nodup

/-- Every command bound in any group, in order. -/
def Config.boundCommands (c : Config) : List Command := c.bind.flatten.map Binding.cmd

/-- R7 (e): each non-heartbeat command occurs in exactly one binding, HEARTBEAT in none. -/
def Config.commandsOk (c : Config) : Bool :=
  Command.all.all fun x => decide (c.boundCommands.count x = if x = .heartbeat then 0 else 1)

/-- R7 (f): `1 <= T <= 65535`. -/
def Config.thresholdOk (c : Config) : Bool := decide (1 ≤ c.T ∧ c.T ≤ 65535)

/-- A configuration is well formed iff all the constraints of 00_scope.md R7 hold. -/
def Config.wf (c : Config) : Bool :=
  c.capacityOk && c.groupsOk && c.masksOk && c.distinctOk && c.commandsOk && c.thresholdOk

/-- `BIND[g]` (00_scope.md R6). -/
def Config.bindings (c : Config) (g : Nat) : List Binding := (c.bind[g]?).getD []

end Sys2Proof
end

