-- ==== Sys2Proof/Machine/Encoder.lean ====
section
/-! DEFINITION. The command-byte encoder, the event frame and the reading of the wire (30_encoding.md R76 to
R81). -/

namespace Sys2Proof.Machine

/-- `ENC(cmd)`: the command's ASCII letter (30_encoding.md R77; the spec takes the byte values from general
knowledge, notes/assumptions/16.md). -/
def enc : Command → Byte
  | .up => 0x55
  | .down => 0x44
  | .right => 0x52
  | .left => 0x4C
  | .actionA => 0x41
  | .actionB => 0x42
  | .heartbeat => 0x48

/-- The line terminator (30_encoding.md R78). -/
def lineFeed : Byte := 0x0A

/-- `FRAME(cmd) = [ENC(cmd), 0x0A]` (30_encoding.md R79). -/
def frame (c : Command) : List Byte := [enc c, lineFeed]

/-- The command of a code byte (30_encoding.md R80). -/
def commandOfCode (b : Byte) : Option Command := Command.all.find? fun c => decide (enc c = b)

/-- Split at every line feed (30_encoding.md R80); the last piece is what follows the last one. -/
def splitLines : List Byte → List (List Byte)
  | [] => [[]]
  | b :: bs =>
    if b = lineFeed then [] :: splitLines bs
    else match splitLines bs with
      | [] => [[b]]
      | l :: ls => (b :: l) :: ls

/-- The event of one piece of the wire: a piece of exactly one byte that is a command's code
(30_encoding.md R80). -/
def eventOfPiece : List Byte → Option Command
  | [b] => commandOfCode b
  | _ => none

/-- The events a reader of the wire sees (30_encoding.md R80). -/
def readEvents (bs : List Byte) : List Command := (splitLines bs).filterMap eventOfPiece

/-- The bytes of the optional banner `START\n` (30_encoding.md R81). -/
def banner : List Byte := [0x53, 0x54, 0x41, 0x52, 0x54, 0x0A]

end Sys2Proof.Machine
end

