-- ==== Sys2Proof/Machine/State.lean ====
section
/-! DEFINITION. The state of the block as plain data (10_state.md R20), the environment's inputs held beside it
(00_scope.md R10), and the state right after reset (10_state.md R41). -/

namespace Sys2Proof.Machine

/-- A producer: `M`, or the input monitor `E(g)` (10_state.md R20). -/
inductive Producer where
  | main
  | monitor (g : Nat)
  deriving DecidableEq, Repr

/-- Why a step is held (60_exceptions.md R203). -/
inductive HoldReason where
  /-- Acceptance of ENQ, TICK or PCHG while its producer is busy. -/
  | busy
  /-- P-ENQ while another producer owns the lock. -/
  | locked
  /-- P-ENQ while the ring is full. -/
  | full
  deriving DecidableEq, Repr

/-- The fault kinds the block records (60_exceptions.md R201). A recorded fault is no stop: the run goes on
(program P6). -/
inductive FaultKind where
  /-- TXC with no byte in flight. -/
  | spuriousTxc
  deriving DecidableEq, Repr

/-- One entry of the sticky fault record: "the kind and the word" (60_exceptions.md R201). -/
structure FaultRecord where
  /-- The fault's kind. -/
  kind : FaultKind
  /-- The word whose operation raised it. -/
  word : OpWord
  deriving DecidableEq, Repr

/-- A scheduling choice: which atomic step is taken (00_scope.md R9, R16). -/
inductive Choice where
  /-- The P-ENQ or P-KICK of a producer. -/
  | producer (p : Producer)
  /-- The acceptance of the `k`-th presented input. -/
  | accept (k : Nat)
  deriving DecidableEq, Repr

/-- What decides once the plan is used up. -/
inductive Policy where
  /-- Any enabled step, by a free value (60_exceptions.md R205). -/
  | free
  /-- The reference schedule of 95_test_vectors.md. -/
  | eager
  deriving DecidableEq, Repr

/-- What the environment presents: an operation word (30_encoding.md R70), or the `.seed` directive, which sets
the port values read at the next RST (30_encoding.md R83). DESIGN CHOICE (notes/assumptions/4.md): the directive may
hold any number of values, of which value `g` is group `g`'s. -/
inductive Input where
  | word (w : OpWord)
  | seed (vs : List Byte)
  deriving DecidableEq, Repr

/-- The control state of one producer (10_state.md R22, R30, R31). -/
structure Sequencer where
  /-- `work[p]`: pending transactions, each a list of bytes. -/
  work : List (List Byte)
  /-- `kickp[p]`: a byte has been written and its KICK not yet taken. -/
  kick : Bool
  deriving DecidableEq, Repr

/-- The registers of one input monitor `E(g)` (10_state.md R28, R29) and its sequencer. -/
structure Monitor where
  /-- `snap[g]`: the most recently observed read of the port. -/
  snap : Byte
  /-- `cur[g]`: the port value of the invocation in progress. -/
  cur : Byte
  /-- `work[E(g)]` and `kickp[E(g)]`. -/
  seq : Sequencer
  deriving DecidableEq, Repr

/-- The slot array as (index, byte) pairs, indices strictly rising; a slot not listed has not been written since
the last reset. -/
abbrev Memory := List Host.Cell

/-- Why the machine stops. -/
inductive Fault where
  /-- Raised by the slot access of P-ENQ, KICK or TXC at an index `>= N`, which no slot has; 20_memory.md R53
  says no run forms one. Safe: the model stops. -/
  | noSuchSlot (i : Nat)
  deriving DecidableEq, Repr

/-- Why a step has no meaning. -/
inductive Refusal where
  /-- An operation whose meaning is not written yet; raised by no arm of `exec`. Safe. -/
  | notModelled (mnemonic : String)
  /-- `BAD_CONFIG`: raised by `step` when the configuration fails 00_scope.md R7 (60_exceptions.md R202). Safe. -/
  | badConfig
  deriving DecidableEq, Repr

/-- The state of the block (10_state.md R20), its configuration (00_scope.md R6), the run's marks
(60_exceptions.md R202, 70_reset_and_hazards.md R240) and the environment's inputs. -/
structure State where
  /-- The configuration record; no step writes it (00_scope.md R6). -/
  cfg : Config
  /-- `buf[0..N-1]`, the slot array (10_state.md R23). -/
  buf : Memory
  /-- Index of the next slot to write (10_state.md R24). -/
  head : Nat
  /-- Index of the next slot to read (10_state.md R25). -/
  tail : Nat
  /-- A byte is in flight on the transmitter (10_state.md R26). -/
  sending : Bool
  /-- `work[M]` and `kickp[M]` (10_state.md R30, R31). -/
  main : Sequencer
  /-- The monitors `E(0)`, ..., `E(G-1)` (10_state.md R28, R29, R30, R31). -/
  mon : List Monitor
  /-- The producer lock (10_state.md R32). -/
  owner : Option Producer
  /-- The HeartbeatCounter, HBW = 16 bits (10_state.md R34). -/
  hb : BitVec 16
  /-- The sticky fault record, a list with no repeats (10_state.md R35). -/
  faults : List FaultRecord
  /-- The bytes handed to the transmitter, in order (10_state.md R33). -/
  wire : List Byte
  /-- The refusal marks of the run, a list with no repeats (60_exceptions.md R202). -/
  refusals : List RefusalKind
  /-- The first RST has happened (70_reset_and_hazards.md R240). -/
  resetDone : Bool
  /-- Model field: the inputs the environment presents (00_scope.md R10). -/
  inbox : List Input
  /-- Model field: the port values supplied to the next RST, group 0 first; a missing one is a free byte. -/
  seed : List Byte
  /-- Model field: the next scheduling choices. -/
  plan : List Choice
  /-- Model field: who chooses after the plan. -/
  policy : Policy
  /-- Model field: the number of the next free draw. -/
  draws : Nat
  /-- Model field: the draw number of the last reset, which names its free slot contents. -/
  slotDraw : Nat
  deriving DecidableEq, Repr

/-- A producer with nothing to do (10_state.md R22, R41). -/
def Sequencer.idle : Sequencer := ⟨[], false⟩

/-- The state right after reset (10_state.md R41), power-on being an RST (70_reset_and_hazards.md R240): no
fault, no mark, an empty wire. DESIGN CHOICE, unsafe where a claim rests on them: the configuration
(notes/assumptions/1.md), `cur[g] = 0x00` (3), `snap[g] = seed[g] = 0xFF` (4). -/
def State.reset : State where
  cfg := Config.reference
  buf := []
  head := 0
  tail := 0
  sending := false
  main := Sequencer.idle
  mon := List.replicate Config.reference.G ⟨0xFF, 0x00, Sequencer.idle⟩
  owner := none
  hb := 0
  faults := []
  wire := []
  refusals := []
  resetDone := true
  inbox := []
  seed := []
  plan := []
  policy := .free
  draws := 1
  slotDraw := 0

/-- The state before the first RST, which 70_reset_and_hazards.md R240 leaves outside the model: as
`State.reset`, with the first RST still to come. It is there so that `NO_RESET` can be shown
(notes/assumptions/10.md). -/
def State.powerOn : State := { State.reset with resetDone := false }

end Sys2Proof.Machine
end

