-- ==== Sys2Proof/Machine/Ops.lean ====
section
/-! DEFINITION. The named operations over the slot array, the producers' sequencers and the monitors, and the
outcomes of a step (hold, fault, refusal mark, hand-off) every meaning shares. -/

namespace Sys2Proof.Machine

/-- The outcome of one step of this machine. -/
abbrev Result := Host.Outcome State Fault Refusal

/-- Run `f` on the state `o` goes on with; a stop stays a stop. -/
def andThen (o : Result) (f : State → Result) : Result :=
  match o with
  | .next s => f s
  | .fault r => .fault r
  | .refused r => .refused r

/-! ## The slot array (10_state.md R23, 20_memory.md R50) -/

/-- What slot `i` was last written with since the reset; none if it was not. -/
def Memory.read : Memory → Nat → Option Byte
  | [], _ => none
  | (a, b) :: m, i => if a = i then some b else Memory.read m i

/-- Write byte `v` to slot `i`, keeping the indices strictly rising. -/
def Memory.write : Memory → Nat → Byte → Memory
  | [], i, v => [(i, v)]
  | (a, b) :: m, i, v =>
    if i < a then (i, v) :: (a, b) :: m
    else if i = a then (i, v) :: m
    else (a, b) :: Memory.write m i v

/-- Every listed index is above `lo`. -/
def Memory.above (lo : Nat) (m : Memory) : Bool := m.all fun c => decide (lo < c.1)

/-- The canonical form: indices strictly rising. An unlisted slot has no value of its own, so no entry can equal
it. -/
def Memory.wf : Memory → Bool
  | [] => true
  | c :: m => Memory.above c.1 m && Memory.wf m

/-- The content of slot `i`: what was last written, else a free byte of the last reset (10_state.md R23 "Reset
value: unspecified (any byte)"; notes/assumptions/2.md). -/
def State.slotByte (s : State) (i : Nat) : Byte := (s.buf.read i).getD (Config.freeSlot s.slotDraw i)

/-- `MemRead(i, 1)` (00_scope.md R14): none where no slot has that index. -/
def State.memRead (s : State) (i : Nat) : Option Byte := if i < s.cfg.N then some (s.slotByte i) else none

/-- The slot array with `buf[i] <- b`. -/
def State.setSlot (s : State) (i : Nat) (b : Byte) : State := { s with buf := s.buf.write i b }

/-- `MemWrite(i, 1, b)` (00_scope.md R14): none where no slot has that index. -/
def State.memWrite (s : State) (i : Nat) (b : Byte) : Option State :=
  if i < s.cfg.N then some (s.setSlot i b) else none

/-- `(i + 1) mod N`, the only address arithmetic (20_memory.md R50). -/
def State.nextIndex (s : State) (i : Nat) : Nat := (i + 1) % s.cfg.N

/-! ## Producers and monitors (10_state.md R20, R22) -/

/-- Stands in for the monitor of a group the block does not have: idle, so it takes no step. -/
def Monitor.absent : Monitor := ⟨0, 0, Sequencer.idle⟩

/-- The monitor `E(g)`. -/
def State.monitor (s : State) (g : Nat) : Monitor := (s.mon[g]?).getD Monitor.absent

/-- Apply `f` to the monitor `E(g)`, if the block has it. -/
def State.updMon (s : State) (g : Nat) (f : Monitor → Monitor) : State := { s with mon := s.mon.modify g f }

/-- `snap[g]` (10_state.md R28). -/
def State.snap (s : State) (g : Nat) : Byte := (s.monitor g).snap

/-- `cur[g]` (10_state.md R29). -/
def State.cur (s : State) (g : Nat) : Byte := (s.monitor g).cur

/-- The sequencer of a producer. -/
def State.seq (s : State) : Producer → Sequencer
  | .main => s.main
  | .monitor g => (s.monitor g).seq

/-- Replace the sequencer of a producer. -/
def State.setSeq (s : State) (p : Producer) (q : Sequencer) : State :=
  match p with
  | .main => { s with main := q }
  | .monitor g => s.updMon g fun m => { m with seq := q }

/-- `work[p]` (10_state.md R30). -/
def State.work (s : State) (p : Producer) : List (List Byte) := (s.seq p).work

/-- `kickp[p]` (10_state.md R31). -/
def State.kickp (s : State) (p : Producer) : Bool := (s.seq p).kick

/-- The producers of the block: `M`, `E(0)`, ..., `E(G-1)` (10_state.md R20). -/
def State.producers (s : State) : List Producer := .main :: (List.range s.cfg.G).map .monitor

/-- An accepted operation's transactions: `work[p] <- ts` (10_state.md R30). -/
def State.give (s : State) (p : Producer) (ts : List (List Byte)) : State :=
  s.setSeq p ⟨ts, s.kickp p⟩

/-- `owner <- o` (10_state.md R32). -/
def State.setOwner (s : State) (o : Option Producer) : State := { s with owner := o }

/-- `COMPLETE(g)`: `snap[g] <- cur[g]`, the end of an invocation and the return from its event
(41_edge_monitor.md R134, 60_exceptions.md R207). -/
def State.complete (s : State) (g : Nat) : State := s.updMon g fun m => { m with snap := m.cur }

/-- `cur[g] <- v` (41_edge_monitor.md R131). -/
def State.setCur (s : State) (g : Nat) (v : Byte) : State := s.updMon g fun m => { m with cur := v }

/-! ## Outcomes of a step (60_exceptions.md R200) -/

/-- `hold(r)`: nothing changes (00_scope.md R15, 60_exceptions.md R203). The reason names the wait. -/
def hold (_r : HoldReason) (s : State) : Result := .next s

/-- Put `x` in a record kept as a list with no repeats. -/
def addOnce {α : Type} [DecidableEq α] (x : α) (l : List α) : List α := if x ∈ l then l else l ++ [x]

/-- The code of a fault kind (60_exceptions.md R201). -/
def faultCode : FaultKind → Byte
  | .spuriousTxc => 0x01

/-- The code of a refusal kind (60_exceptions.md R202). -/
def refusalCode : RefusalKind → Byte
  | .reservedOp => 0x10
  | .badField => 0x11
  | .badGroup => 0x12
  | .badConfig => 0x13
  | .noReset => 0x14

/-- The refusal kind a step that has no meaning stands for (60_exceptions.md R202). -/
def refusalKindOf : Refusal → Option RefusalKind
  | .badConfig => some .badConfig
  | _ => none

/-- `s` with a fault added to the sticky record (60_exceptions.md R201). -/
def State.recordFault (s : State) (k : FaultKind) (w : OpWord) : State :=
  { s with faults := addOnce ⟨k, w⟩ s.faults }

/-- `raise Fault(k)`: the kind and the word are recorded, "changes no other state", and the run goes on
(00_scope.md R15, 60_exceptions.md R201; notes/assumptions/7.md). The one operation that raises a fault. -/
def raiseFault (k : FaultKind) (w : OpWord) (s : State) : Result := .next (s.recordFault k w)

/-- `s` with a refusal mark (60_exceptions.md R202). -/
def State.mark (s : State) (r : RefusalKind) : State := { s with refusals := addOnce r s.refusals }

/-- `refuse(r)`: the mark is kept and no block state changes; the run goes on (00_scope.md R15, 60_exceptions.md
R202; notes/assumptions/8.md). -/
def refuse (r : RefusalKind) (s : State) : Result := .next (s.mark r)

/-- `Transmit(b)`: `b` is handed to the transmitter (00_scope.md R15). -/
def State.transmit (s : State) (b : Byte) : State := { s with wire := s.wire ++ [b] }

/-- The next byte leaves the ring: `tail` advances, `sending` is set and the byte is transmitted
(10_state.md R25, R26). -/
def State.takeNext (s : State) (b : Byte) : State :=
  { s with tail := s.nextIndex s.tail, sending := true }.transmit b

/-- The hand-off KICK and TXC share: read the slot at `tail`, advance `tail`, transmit the byte
(40_ring_buffer.md R104, R105). -/
def handOff (s : State) : Result :=
  match s.memRead s.tail with
  | none => .fault (.noSuchSlot s.tail)
  | some b => .next (s.takeNext b)

/-! ## The environment's inputs (00_scope.md R10) -/

/-- The `k`-th presented input has been taken. -/
def State.consume (s : State) (k : Nat) : State := { s with inbox := s.inbox.eraseIdx k }

/-- `.seed`: the port values the environment supplies to the next RST (30_encoding.md R83). -/
def State.withSeed (s : State) (vs : List Byte) : State := { s with seed := vs }

/-- The port value of group `g` read at reset: what the environment supplied, else a free byte
(42_heartbeat_and_system.md R162, 93_implementation_defined.md U3). DESIGN CHOICE (notes/assumptions/4.md): R83's
`.seed` has exactly `G` values and the spec is silent on another count; where there are more, the values past the
last group are ignored, and where there are fewer, each missing one is a free byte. -/
def State.seedFor (s : State) (g : Nat) : Byte := (s.seed[g]?).getD (Config.freeSeed s.draws g)

end Sys2Proof.Machine
end

