-- ==== Sys2Proof/Machine/Operands.lean ====
section
/-! DEFINITION. The operand forms of 30_encoding.md R72: an unsigned byte used as is, an unsigned group index
used as is, and the producer an operation is for (60_exceptions.md R204). -/

namespace Sys2Proof.Machine

/-- `GRP` as a group index (30_encoding.md R72: "used as is"). -/
def groupIndex (g : BitVec 4) : Nat := g.toNat

/-- `DATA` as the byte to enqueue or the port value: `zext_8(DATA) = DATA` (30_encoding.md R72). -/
def dataOperand (b : Byte) : Byte := b

/-- The producer that accepts an operation; none for RST and TXC, which are always accepted
(60_exceptions.md R204). -/
def acceptor : Instr → Option Producer
  | .rst => none
  | .enq _ => some .main
  | .pchg g _ => some (.monitor (groupIndex g))
  | .tick => some .main
  | .txc => none

end Sys2Proof.Machine
end

