-- ==== Sys2Proof/Machine/Flags.lean ====
section
/-! DEFINITION. The derived status of the ring and the producers (10_state.md R22, R27, R36, R38) and the hold
conditions computed from it (60_exceptions.md R203). Only `sending` is stored. -/

namespace Sys2Proof.Machine

/-- `count = (head - tail) mod N`, the number of buffered bytes (10_state.md R27). -/
def State.count (s : State) : Nat := (s.head + (s.cfg.N - s.tail % s.cfg.N)) % s.cfg.N

/-- `empty = (head = tail)` (10_state.md R27). -/
def State.empty (s : State) : Bool := decide (s.head = s.tail)

/-- `full = ((head + 1) mod N = tail)` (10_state.md R27). -/
def State.full (s : State) : Bool := decide (s.nextIndex s.head = s.tail)

/-- `busy(p) = (work[p] != [] or kickp[p])` (10_state.md R36). -/
def State.busy (s : State) (p : Producer) : Bool := decide (s.work p ≠ []) || s.kickp p

/-- `owner != none` (10_state.md R40). -/
def State.locked (s : State) : Bool := s.owner.isSome

/-- Another producer than `p` owns the lock (40_ring_buffer.md R101). -/
def State.lockedFor (s : State) (p : Producer) : Bool := decide (s.owner ≠ none ∧ s.owner ≠ some p)

/-- Why a P-ENQ of `p` is held, tested in the order of 40_ring_buffer.md R102. -/
def State.enqHold (s : State) (p : Producer) : Option HoldReason :=
  if s.lockedFor p = true then some .locked
  else if s.full = true then some .full
  else none

/-- Why the acceptance of an operation is held (60_exceptions.md R203). Before the first RST nothing is held:
the operation is refused (70_reset_and_hazards.md R240). -/
def acceptHold (i : Instr) (s : State) : Option HoldReason :=
  match acceptor i with
  | none => none
  | some p => if s.resetDone = true ∧ s.busy p = true then some .busy else none

end Sys2Proof.Machine
end

