-- ==== Sys2Proof/Machine/Edge.lean ====
section
/-! DEFINITION. The Edge-Triggered Input Monitor: the falling-edge predicate and the operation PCHG
(41_edge_monitor.md R130 to R134). -/

namespace Sys2Proof.Machine

/-- `FALL(changed, v, m)` (41_edge_monitor.md R132). -/
def fall (changed v m : Byte) : Bool := decide (changed &&& m ≠ 0 ∧ v &&& m = 0)

/-- The commands of a group's falling edges, in the binding list's order (41_edge_monitor.md R131, R133). -/
def edgeEvents (bs : List Binding) (snap v : Byte) : List Command :=
  (bs.filter fun x => fall (v ^^^ snap) v x.mask).map Binding.cmd

/-- The events PCHG g, v finds in state `s` (41_edge_monitor.md R131). -/
def State.eventsAt (s : State) (g : Nat) (v : Byte) : List Command :=
  edgeEvents (s.cfg.bindings g) (s.snap g) v

/-- The acceptance step of PCHG g, v when `E(g)` is idle (41_edge_monitor.md R131). -/
def State.startInvocation (s : State) (g : Nat) (v : Byte) : State :=
  let evs := s.eventsAt g v
  let t := (s.setCur g v).give (.monitor g) (evs.map frame)
  if evs = [] then t.complete g else t

/-- PCHG g, v: `on_port_change()` (41_edge_monitor.md R131). The decoder gives no `GRP >= G`
(30_encoding.md R73); given one all the same, it is refused as the decoder would (notes/assumptions/23.md). -/
def execPchg (g : BitVec 4) (v : Byte) (s : State) : Result :=
  if s.cfg.G ≤ groupIndex g then refuse .badGroup s
  else if s.resetDone = false then refuse .noReset s
  else if s.busy (.monitor (groupIndex g)) = true then hold .busy s
  else .next (s.startInvocation (groupIndex g) (dataOperand v))

end Sys2Proof.Machine
end

