-- ==== Sys2Proof/Machine/Heartbeat.lean ====
section
/-! DEFINITION. The Heartbeat Emitter: the operation TICK (42_heartbeat_and_system.md R160). -/

namespace Sys2Proof.Machine

/-- The acceptance step of TICK when M is idle: count, and at the threshold reset the counter and give M one
heartbeat event (42_heartbeat_and_system.md R160). -/
def State.countTick (s : State) : State :=
  let c := s.hb.toNat + 1
  if s.cfg.T ≤ c then { s with hb := 0 }.give .main [frame .heartbeat]
  else { s with hb := BitVec.ofNat 16 c }

/-- TICK: one call of the Heartbeat Emitter (42_heartbeat_and_system.md R160). -/
def execTick (s : State) : Result :=
  if s.resetDone = false then refuse .noReset s
  else if s.busy .main = true then hold .busy s
  else .next s.countTick

end Sys2Proof.Machine
end

