-- ==== Sys2Proof/Machine/Reset.lean ====
section
/-! DEFINITION. The block's only system operation, RST (42_heartbeat_and_system.md R162, R163). -/

namespace Sys2Proof.Machine

/-- Monitor `E(g)` after RST: the snapshot is the seed, `cur[g]` any byte, nothing pending
(42_heartbeat_and_system.md R162). -/
def State.resetMonitor (s : State) (g : Nat) : Monitor :=
  { snap := s.seedFor g, cur := Config.freeCur s.draws g, seq := Sequencer.idle }

/-- `RST(seed)` (42_heartbeat_and_system.md R162): `faults` and `wire` stay; every slot holds any byte, so none is
listed; the supplied seeds are used up and the free values' draw number advances. -/
def State.afterRst (s : State) : State :=
  { s with
    head := 0
    tail := 0
    sending := false
    main := Sequencer.idle
    mon := (List.range s.cfg.G).map s.resetMonitor
    owner := none
    hb := 0
    buf := []
    resetDone := true
    seed := []
    slotDraw := s.draws
    draws := s.draws + 1 }

/-- RST: accepted in every state, never held (42_heartbeat_and_system.md R162). -/
def execRst (s : State) : Result := .next s.afterRst

end Sys2Proof.Machine
end

