-- ==== Sys2Proof/Machine/Ring.lean ====
section
/-! DEFINITION. The Transmit Ring Buffer: the producers' internal steps P-ENQ and P-KICK, the consumer's KICK,
and the operations ENQ and TXC (40_ring_buffer.md R100 to R106). -/

namespace Sys2Proof.Machine

/-- What P-ENQ does when it is not held: publish the written byte and take the lock (40_ring_buffer.md R102). -/
def State.publish (s : State) (p : Producer) (bs : List Byte) (ts : List (List Byte)) : State :=
  ({ s with head := s.nextIndex s.head }.setOwner (some p)).setSeq p ⟨bs :: ts, true⟩

/-- `P-ENQ(p)` with first byte `b` of the current transaction `b :: bs` (40_ring_buffer.md R102). -/
def pEnq (p : Producer) (b : Byte) (bs : List Byte) (ts : List (List Byte)) (s : State) : Result :=
  match s.enqHold p with
  | some r => hold r s
  | none =>
    match s.memWrite s.head b with
    | none => .fault (.noSuchSlot s.head)
    | some s' => .next (s'.publish p bs ts)

/-- `KICK()`: start if idle (40_ring_buffer.md R104). -/
def kick (s : State) : Result :=
  if s.sending = false ∧ s.empty = false then handOff s else .next s

/-- The end of an invocation of `E(g)` when its last transaction is written (40_ring_buffer.md R103). -/
def State.completeIfLast (s : State) (p : Producer) (ts : List (List Byte)) : State :=
  match p with
  | .main => s
  | .monitor g => if ts = [] then s.complete g else s

/-- What P-KICK does after its KICK (40_ring_buffer.md R103): clear `kickp[p]`; at the end of a transaction
release the lock, and at the end of an invocation COMPLETE. -/
def State.endKick (s : State) (p : Producer) : State :=
  match s.work p with
  | [] :: ts => ((s.setSeq p ⟨ts, false⟩).setOwner none).completeIfLast p ts
  | w => s.setSeq p ⟨w, false⟩

/-- `P-KICK(p)` (40_ring_buffer.md R103). -/
def pKick (p : Producer) (s : State) : Result := andThen (kick s) fun t => .next (t.endKick p)

/-- The step producer `p` is about to take (10_state.md R22): P-KICK, P-ENQ, or none when it is idle. -/
def producerStep (p : Producer) (s : State) : Result :=
  if s.kickp p = true then pKick p s
  else match s.work p with
    | (b :: bs) :: ts => pEnq p b bs ts s
    | _ => .next s

/-- `p` has an enabled step: a P-KICK, or a P-ENQ that is not held (60_exceptions.md R203, R205). -/
def producerEnabled (s : State) (p : Producer) : Bool :=
  s.kickp p ||
    match s.work p with
    | (_ :: _) :: _ => (s.enqHold p).isNone
    | _ => false

/-- ENQ b: producer M takes one byte to enqueue (40_ring_buffer.md R106). -/
def execEnq (b : Byte) (s : State) : Result :=
  if s.resetDone = false then refuse .noReset s
  else if s.busy .main = true then hold .busy s
  else .next (s.give .main [[dataOperand b]])

/-- TXC's effect with a byte in flight: hand off the next byte, or stop sending (40_ring_buffer.md R105). -/
def transmitComplete (s : State) : Result :=
  if s.empty = false then handOff s else .next { s with sending := false }

/-- TXC: `on_transmit_complete()` (40_ring_buffer.md R105). -/
def execTxc (s : State) : Result :=
  if s.resetDone = false then refuse .noReset s
  else if s.sending = false then raiseFault .spuriousTxc 0x5000 s
  else transmitComplete s

end Sys2Proof.Machine
end

