-- ==== Sys2Proof/Machine/Dispatch.lean ====
section
/-! DEFINITION. One arm per operation of 30_encoding.md R71. -/

namespace Sys2Proof.Machine

/-- The acceptance step of an operation (60_exceptions.md R206). -/
def exec (i : Instr) (s : State) : Host.Outcome State Fault Refusal :=
  match i with
  | .rst => Sys2Proof.Machine.execRst s
  | .enq b => Sys2Proof.Machine.execEnq b s
  | .pchg g v => Sys2Proof.Machine.execPchg g v s
  | .tick => Sys2Proof.Machine.execTick s
  | .txc => Sys2Proof.Machine.execTxc s

end Sys2Proof.Machine
end

