-- ==== Sys2Proof/Machine/Schedule.lean ====
section
/-! DEFINITION. Presenting an input and choosing the next step: acceptance of a presented word or `.seed`
directive (00_scope.md R10, 60_exceptions.md R203, R206), the steps that are enabled (R205), and the choice among
them, which the spec leaves open (93_implementation_defined.md U5, U6; notes/assumptions/5.md). -/

namespace Sys2Proof.Machine

/-- The operation in the `k`-th presented word, if it is a word and the decoder reads it. -/
def State.operationAt (s : State) (k : Nat) : Option Instr :=
  match s.inbox[k]? with
  | some (.word w) => (decode s.cfg.G w).toOption
  | _ => none

/-- Take a word out of the inbox and run its operation; a held operation stays presented; a refused word leaves
its mark (60_exceptions.md R202, R203). -/
def acceptWord (k : Nat) (w : OpWord) (s : State) : Result :=
  match decode s.cfg.G w with
  | .error r => refuse r (s.consume k)
  | .ok i =>
    match acceptHold i s with
    | some r => hold r s
    | none => exec i (s.consume k)

/-- Take the `k`-th presented input; nothing happens where there is none. -/
def accept (k : Nat) (s : State) : Result :=
  match s.inbox[k]? with
  | none => .next s
  | some (.seed vs) => .next ((s.consume k).withSeed vs)
  | some (.word w) => acceptWord k w s

/-- The `k`-th presented input can be taken now: it is not held (60_exceptions.md R203). -/
def acceptEnabled (s : State) (k : Nat) : Bool :=
  match s.operationAt k with
  | none => true
  | some i => (acceptHold i s).isNone

/-- Take the chosen step; a step that is not enabled is held and changes nothing (60_exceptions.md R203). -/
def perform (c : Choice) (s : State) : Result :=
  match c with
  | .producer p => producerStep p s
  | .accept k => accept k s

/-- The producers with an enabled internal step, in the order M, E(0), E(1), ... -/
def State.readyProducers (s : State) : List Producer := s.producers.filter (producerEnabled s)

/-- Every enabled step (60_exceptions.md R205). -/
def State.enabledChoices (s : State) : List Choice :=
  s.readyProducers.map .producer ++ ((List.range s.inbox.length).filter (acceptEnabled s)).map .accept

/-- The reference schedule of 95_test_vectors.md: internal steps while any is enabled, the first producer in the
order M, E(0), E(1), ...; then the next presented input. -/
def State.eagerChoice (s : State) : Option Choice :=
  match s.readyProducers with
  | p :: _ => some (.producer p)
  | [] => if s.inbox = [] then none else some (.accept 0)

/-- Any enabled step: no choice where there is at most one, else by a free value, which uses one draw
(60_exceptions.md R205). -/
def State.freeChoiceStep (s : State) : Option (Choice × State) :=
  match s.enabledChoices with
  | [] => none
  | [c] => some (c, s)
  | c :: d :: cs =>
    ((c :: d :: cs)[Config.freeChoice s.draws % (c :: d :: cs).length]?).map
      fun x => (x, { s with draws := s.draws + 1 })

/-- The step taken next, and the state with the schedule moved on: the plan first, then the policy. None: no step
is enabled. -/
def State.choose (s : State) : Option (Choice × State) :=
  match s.plan with
  | c :: cs => some (c, { s with plan := cs })
  | [] =>
    match s.policy with
    | .free => s.freeChoiceStep
    | .eager => s.eagerChoice.map fun c => (c, s)

/-- One atomic step of the block in a well-formed configuration; where no step is enabled the block waits
(60_exceptions.md R203, R215). -/
def stepChosen (s : State) : Result :=
  match s.choose with
  | none => .next s
  | some (c, t) => perform c t

/-- A step with the configuration check of 00_scope.md R7 (refusal `BAD_CONFIG`, 60_exceptions.md R202). -/
def checkedStep (s : State) : Result :=
  if s.cfg.wf = true then stepChosen s else .refused .badConfig

/-- `s` with one word presented first and its acceptance scheduled next. -/
def State.present (s : State) (w : OpWord) : State :=
  { s with inbox := .word w :: s.inbox, plan := .accept 0 :: s.plan }

end Sys2Proof.Machine
end

