-- ==== Sys2Proof/Machine/Step.lean ====
section
/-! DEFINITION. One atomic step of the block (00_scope.md R16, 60_exceptions.md R200), and a word placed where the
next step takes it. -/

namespace Sys2Proof.Machine

/-- One atomic step (00_scope.md R16). -/
def step : State → Host.Outcome State Fault Refusal := checkedStep

/-- `s` with the word of the opcode table's bits presented and taken by the very next step
(notes/assumptions/14.md). -/
def State.withFetchWord (s : State) (nbits w : Nat) : State := s.present (tableWord nbits w)

end Sys2Proof.Machine
end

