-- ==== Sys2Proof/Machine/Assembler.lean ====
section
/-! DEFINITION. The notation of operation programs (30_encoding.md R82, R83): the lines, their expansion into
words and `.seed` directives, and the reading of a line's text. The text is a list of characters. -/

namespace Sys2Proof.Machine

/-- One line of a program (30_encoding.md R82, R83). -/
inductive ProgramLine where
  /-- An empty line or a comment. -/
  | blank
  /-- One of the five operations. -/
  | op (i : Instr)
  /-- `SEND "<text>"`: one ENQ per character. -/
  | send (text : List Byte)
  /-- `TICKS <n>`. -/
  | ticks (n : Nat)
  /-- `DRAIN <n>`: `n` TXC. -/
  | drain (n : Nat)
  /-- `.seed <v0>, ...`: the port values supplied to the next RST; no operation. The spec's form has exactly `G`
  values; that any number of one or more is a line is the model's DESIGN CHOICE (notes/assumptions/20.md). -/
  | seed (vs : List Byte)
  deriving DecidableEq, Repr

/-- The inputs a line stands for, in order (30_encoding.md R83). -/
def ProgramLine.expand : ProgramLine → List Input
  | .blank => []
  | .op i => [.word (encode i)]
  | .send text => text.map fun b => .word (encode (.enq b))
  | .ticks n => List.replicate n (.word (encode .tick))
  | .drain n => List.replicate n (.word (encode .txc))
  | .seed vs => [.seed vs]

/-- A program presented to the block, its lines "applied in order under the schedule of 95_test_vectors.md"
(30_encoding.md R82). -/
def State.withProgram (s : State) (ls : List ProgramLine) : State :=
  { s with inbox := (ls.map ProgramLine.expand).flatten, plan := [], policy := .eager }

/-! ## Reading a line's text -/

/-- The symbols of a line. -/
inductive Token where
  /-- A mnemonic or a directive's name. -/
  | name (cs : List Char)
  /-- A number, decimal or `0xNN`. -/
  | num (n : Nat)
  /-- A quoted character's code. -/
  | chr (b : Byte)
  /-- A quoted text's codes. -/
  | text (bs : List Byte)
  /-- `,` -/
  | comma
  deriving DecidableEq, Repr

/-- The ASCII code of a character; none outside ASCII (30_encoding.md R82). -/
def asciiCode (c : Char) : Option Byte := if c.toNat < 128 then some (BitVec.ofNat 8 c.toNat) else none

/-- A decimal digit's value. -/
def decDigit (c : Char) : Option Nat :=
  if 48 ≤ c.toNat ∧ c.toNat ≤ 57 then some (c.toNat - 48) else none

/-- A hexadecimal digit's value. -/
def hexDigit (c : Char) : Option Nat :=
  if 48 ≤ c.toNat ∧ c.toNat ≤ 57 then some (c.toNat - 48)
  else if 65 ≤ c.toNat ∧ c.toNat ≤ 70 then some (c.toNat - 55)
  else if 97 ≤ c.toNat ∧ c.toNat ≤ 102 then some (c.toNat - 87)
  else none

/-- The number a non-empty list of digits spells in a base. -/
def readDigits (base : Nat) (digit : Char → Option Nat) : List Char → Nat → Option Nat
  | [], acc => some acc
  | c :: cs, acc =>
    match digit c with
    | none => none
    | some d => readDigits base digit cs (acc * base + d)

/-- A number: `0x` and hexadecimal digits, or decimal digits (30_encoding.md R82). DESIGN CHOICE
(notes/assumptions/20.md): R82's form is `0xNN`, with two digits, and says nothing of another count; one or more digits
are accepted, hexadecimal or decimal, leading zeros among them, with a lower-case `x` and hexadecimal digits in either
case. -/
def readNumber (cs : List Char) : Option Nat :=
  match cs with
  | [] => none
  | '0' :: 'x' :: d :: ds => readDigits 16 hexDigit (d :: ds) 0
  | d :: ds => readDigits 10 decDigit (d :: ds) 0

/-- The body of a quoted text up to its closing quote, `\n` meaning `0x0A` (30_encoding.md R83), with what
follows the quote. DESIGN CHOICE (notes/assumptions/20.md): the first `"` closes the text, and a backslash before
another character stands for itself. -/
def readText : List Char → Option (List Byte × List Char)
  | [] => none
  | '"' :: cs => some ([], cs)
  | '\\' :: 'n' :: cs => (readText cs).map fun r => (lineFeed :: r.1, r.2)
  | c :: cs =>
    match asciiCode c, readText cs with
    | some b, some r => some (b :: r.1, r.2)
    | _, _ => none

/-- A character of a name or a number. -/
def wordChar (c : Char) : Bool := c.isAlphanum || c == '.' || c == '_'

/-- A bare word is a number when it begins with a digit, else a name. -/
def wordToken (cs : List Char) : Option Token :=
  match cs with
  | [] => none
  | c :: _ => if (decDigit c).isSome then (readNumber cs).map .num else some (.name cs)

/-- The symbols of a line; `;` starts a comment (30_encoding.md R82). `fuel` bounds the number of symbols and
spaces: a line's length is enough. DESIGN CHOICE (notes/assumptions/20.md): spaces and tabs may stand between any two
symbols, and a `;` inside quotes is a character like any other. -/
def tokens : Nat → List Char → Option (List Token)
  | 0, cs => if cs = [] then some [] else none
  | _, [] => some []
  | fuel + 1, c :: cs =>
    if c = ';' then some []
    else if c = ' ' ∨ c = '\t' then tokens fuel cs
    else if c = ',' then (tokens fuel cs).map (.comma :: ·)
    else if c = '"' then
      match readText cs with
      | none => none
      | some r => (tokens fuel r.2).map (.text r.1 :: ·)
    else if c = '\'' then
      match cs with
      | x :: '\'' :: rest =>
        match asciiCode x, tokens fuel rest with
        | some b, some ts => some (.chr b :: ts)
        | _, _ => none
      | _ => none
    else
      match wordToken (c :: cs.takeWhile wordChar), tokens fuel (cs.dropWhile wordChar) with
      | some t, some ts => some (t :: ts)
      | _, _ => none

/-- A byte operand: `0xNN`, decimal, or a quoted character (30_encoding.md R82). -/
def byteToken : Token → Option Byte
  | .num n => if n < 256 then some (BitVec.ofNat 8 n) else none
  | .chr b => some b
  | _ => none

/-- A comma-separated list of bytes. -/
def byteList : List Token → Option (List Byte)
  | [t] => (byteToken t).map fun b => [b]
  | t :: .comma :: ts =>
    match byteToken t, byteList ts with
    | some b, some bs => some (b :: bs)
    | _, _ => none
  | _ => none

/-- The line a list of symbols spells; none where it spells none (30_encoding.md R82, R83). DESIGN CHOICE
(notes/assumptions/20.md): a `.seed` line of one or more values is accepted, though R83's form has exactly `G`
values and says nothing of another count; `State.seedFor` says what a surplus or a missing value does. -/
def parseTokens : List Token → Option ProgramLine
  | [] => some .blank
  | [.name ['R', 'S', 'T']] => some (.op .rst)
  | [.name ['T', 'I', 'C', 'K']] => some (.op .tick)
  | [.name ['T', 'X', 'C']] => some (.op .txc)
  | [.name ['E', 'N', 'Q'], t] => (byteToken t).map fun b => .op (.enq b)
  | [.name ['P', 'C', 'H', 'G'], .num g, .comma, t] =>
    if g < 16 then (byteToken t).map fun b => .op (.pchg (BitVec.ofNat 4 g) b) else none
  | [.name ['S', 'E', 'N', 'D'], .text bs] => some (.send bs)
  | [.name ['T', 'I', 'C', 'K', 'S'], .num n] => some (.ticks n)
  | [.name ['D', 'R', 'A', 'I', 'N'], .num n] => some (.drain n)
  | .name ['.', 's', 'e', 'e', 'd'] :: ts => (byteList ts).map .seed
  | _ => none

/-- The line of a program's text (30_encoding.md R82). -/
def parseLine (cs : List Char) : Option ProgramLine := (tokens cs.length cs).bind parseTokens

end Sys2Proof.Machine
end

