-- ==== Sys2Proof/Machine/View.lean ====
section
/-! DEFINITION. What can be read of the block: the numbered read-only status view (10_state.md R40) and the
output signals of the logical interface (00_scope.md R10). Reading changes nothing (20_memory.md R55). -/

namespace Sys2Proof.Machine

/-- The STATUS register (10_state.md R40): bits SENDING, EMPTY, FULL, LOCKED, M_BUSY; bits 7:5 read 0. -/
def State.statusBits (s : State) : Byte :=
  BitVec.ofBool false ++ BitVec.ofBool false ++ BitVec.ofBool false ++ BitVec.ofBool (s.busy .main) ++
    BitVec.ofBool s.locked ++ BitVec.ofBool s.full ++ BitVec.ofBool s.empty ++ BitVec.ofBool s.sending

/-- The EBUSY register's bits for groups `0 .. g-1` (10_state.md R40). -/
def State.groupBusyBits (s : State) : Nat → BitVec 16
  | 0 => 0
  | g + 1 => s.groupBusyBits g ||| (if s.busy (.monitor g) = true then BitVec.twoPow 16 g else 0)

/-- The status view: the content of register `n`; a reserved number returns no value (10_state.md R40). A slot not
written since the reset shows its free byte. -/
def State.view (s : State) (n : Nat) : Option (BitVec 16) :=
  if n = 0x00 then some ((BitVec.ofNat 8 s.head).setWidth 16)
  else if n = 0x01 then some ((BitVec.ofNat 8 s.tail).setWidth 16)
  else if n = 0x02 then some (s.statusBits.setWidth 16)
  else if n = 0x03 then some s.hb
  else if n = 0x04 then some (s.groupBusyBits s.cfg.G)
  else if 0x10 ≤ n ∧ n < 0x10 + s.cfg.G then some ((s.snap (n - 0x10)).setWidth 16)
  else if 0x100 ≤ n ∧ n < 0x100 + s.cfg.N then some ((s.slotByte (n - 0x100)).setWidth 16)
  else none

/-- The output levels of the logical interface (00_scope.md R10). -/
structure Signals where
  /-- Producer M busy. -/
  mBusy : Bool
  /-- Group busy, group 0 first. -/
  eBusy : List Bool
  /-- A byte is in flight. -/
  sending : Bool
  /-- The ring is empty. -/
  empty : Bool
  /-- The ring is full. -/
  full : Bool
  deriving DecidableEq, Repr

/-- The output levels in a state (00_scope.md R10). -/
def State.signals (s : State) : Signals where
  mBusy := s.busy .main
  eBusy := (List.range s.cfg.G).map fun g => s.busy (.monitor g)
  sending := s.sending
  empty := s.empty
  full := s.full

/-- `tx_start`, `tx_data`: the bytes handed to the transmitter between two states of a run (00_scope.md R10). -/
def handedOver (s t : State) : List Byte := t.wire.drop s.wire.length

/-- The byte in flight on the transmitter (10_state.md R26, R39 (a)). -/
def State.inFlight (s : State) : Option Byte := if s.sending = true then s.wire.getLast? else none

end Sys2Proof.Machine
end

