-- ==== Sys2Proof/Safety.lean ====
section
/-! DEFINITION. The terms the claims are stated in: the buffered bytes and the logs of 40_ring_buffer.md R108 and
R115, what the next step does, and the invariant of the block (10_state.md R39 and the derived bounds of the
rules). -/

namespace Sys2Proof.Machine

/-- The state a step goes on with, if it goes on. -/
def nextState? (o : Result) : Option State :=
  match o with
  | .next s => some s
  | .fault _ => none
  | .refused _ => none

/-! ## The ring's content (40_ring_buffer.md R108) -/

/-- The slots from `tail` up to `head`, in order (40_ring_buffer.md R108). -/
def State.pendingSlots (s : State) : List Nat :=
  (List.range s.count).map fun k => (s.tail + k) % s.cfg.N

/-- `pending`: the buffered bytes, next to be sent first (40_ring_buffer.md R108). -/
def State.pending (s : State) : List Byte := s.pendingSlots.map s.slotByte

/-! ## What the next step does -/

/-- The producer whose P-ENQ is the next step, with its current transaction's remaining bytes. -/
def State.nextWrite (s : State) : Option (Producer × List Byte) :=
  match s.choose with
  | some (.producer p, t) =>
    if t.kickp p = true then none
    else match t.work p with
      | (b :: bs) :: _ => if (t.enqHold p).isNone then some (p, b :: bs) else none
      | _ => none
  | _ => none

/-- The producer whose P-KICK is the next step. -/
def State.nextKick (s : State) : Option Producer :=
  match s.choose with
  | some (.producer p, t) => if t.kickp p = true then some p else none
  | _ => none

/-- The byte the next step writes into the ring, as a list of at most one. -/
def State.writes (s : State) : List Byte :=
  match s.nextWrite with
  | some (_, b :: _) => [b]
  | _ => []

/-- The command whose frame the list of bytes is. -/
def commandOfFrame (bs : List Byte) : Option Command := Command.all.find? fun c => decide (frame c = bs)

/-- The command of the event whose first byte the next step writes, as a list of at most one
(40_ring_buffer.md R115). -/
def State.starts (s : State) : List Command :=
  match s.nextWrite with
  | some (p, bs) => if s.owner = some p then [] else (commandOfFrame bs).toList
  | none => []

/-- The operation the next step runs (accepts or answers), if any; a held operation is not run. -/
def State.runs (s : State) : Option Instr :=
  match s.choose with
  | some (.accept k, t) =>
    match t.operationAt k with
    | some i => if (acceptHold i t).isNone then some i else none
    | none => none
  | _ => none

/-- `k` steps in a row. -/
def runSteps : Nat → State → Result
  | 0, s => .next s
  | k + 1, s => andThen (step s) (runSteps k)

/-- `enqlog` over `k` steps: the bytes written by P-ENQ steps, in order (40_ring_buffer.md R108). -/
def enqLog : Nat → State → List Byte
  | 0, _ => []
  | k + 1, s =>
    s.writes ++
      match step s with
      | .next t => enqLog k t
      | _ => []

/-- The commands of the event transactions begun in `k` steps, in order (40_ring_buffer.md R115). -/
def commandLog : Nat → State → List Command
  | 0, _ => []
  | k + 1, s =>
    s.starts ++
      match step s with
      | .next t => commandLog k t
      | _ => []

/-- In `k` steps only operations that satisfy `ok` are run. -/
def runsOnly (ok : Instr → Bool) : Nat → State → Bool
  | 0, _ => true
  | k + 1, s =>
    (match s.runs with
      | some i => ok i
      | none => true) &&
      match step s with
      | .next t => runsOnly ok k t
      | _ => true

/-- Every operation but RST. -/
def notRst : Instr → Bool
  | .rst => false
  | _ => true

/-- Every operation but RST and the host's ENQ (40_ring_buffer.md R115). -/
def notRstOrEnq : Instr → Bool
  | .rst => false
  | .enq _ => false
  | _ => true

/-- Every operation but RST and the PCHG of group `g` (41_edge_monitor.md R137, "consecutive"). -/
def notRstOrGroup (g : Nat) : Instr → Bool
  | .rst => false
  | .pchg h _ => decide (h.toNat ≠ g)
  | _ => true

/-- What producers still have to do: two steps for every byte to enqueue, one for a KICK still to come. -/
def State.debt (s : State) : Nat :=
  (s.producers.map fun p => 2 * (s.work p).flatten.length + (s.kickp p).toNat).sum

/-- ENQ b followed by producer M's P-ENQ and P-KICK (40_ring_buffer.md R106, R112). -/
def enqueueByte (b : Byte) (s : State) : Result :=
  andThen (exec (.enq b) s) fun t => andThen (producerStep .main t) (producerStep .main)

/-- `n` TXC operations in a row (30_encoding.md R83, `DRAIN n`). -/
def drain : Nat → State → Result
  | 0, s => .next s
  | n + 1, s => andThen (exec .txc s) (drain n)

/-- `n` accepted TICK operations, M being idle again before each (42_heartbeat_and_system.md R161). -/
def acceptedTicks : Nat → State → Result
  | 0, s => .next s
  | n + 1, s => andThen (acceptedTicks n s) fun t => exec .tick { t with main := Sequencer.idle }

/-- Nothing buffered and no producer busy (the state right after RST among them). -/
abbrev State.Quiet (s : State) : Prop := s.head = s.tail ∧ ∀ p ∈ s.producers, s.busy p = false

/-! ## Frames: what two states agree on -/

/-- The same ring: indices, `sending`, and every slot as it reads. -/
abbrev SameRing (s t : State) : Prop :=
  t.head = s.head ∧ t.tail = s.tail ∧ t.sending = s.sending ∧
    ∀ i, t.memRead i = s.memRead i ∧ t.slotByte i = s.slotByte i ∧ t.buf.read i = s.buf.read i

/-- The same registers in the monitors other than `E(g)`, and in the other producers than `E(g)`. -/
abbrev SameButGroup (g : Nat) (s t : State) : Prop :=
  (∀ k, k ≠ g → t.snap k = s.snap k ∧ t.cur k = s.cur k) ∧ ∀ p, p ≠ .monitor g → t.seq p = s.seq p

/-- The same registers in every monitor. -/
abbrev SameMonitors (s t : State) : Prop :=
  ∀ g, t.snap g = s.snap g ∧ t.cur g = s.cur g ∧ t.seq (.monitor g) = s.seq (.monitor g)

/-- The same configuration, environment inputs, schedule and free draws. -/
abbrev SameInputs (s t : State) : Prop :=
  t.cfg = s.cfg ∧ t.resetDone = s.resetDone ∧ t.inbox = s.inbox ∧ t.seed = s.seed ∧ t.plan = s.plan ∧
    t.policy = s.policy ∧ t.draws = s.draws ∧ t.slotDraw = s.slotDraw

/-! ## The invariant -/

/-- The configuration is well formed and every group has its monitor (00_scope.md R7, 10_state.md R20). -/
abbrev State.SizesOk (s : State) : Prop := s.cfg.wf = true ∧ s.mon.length = s.cfg.G

/-- `head` and `tail` are slot indices, the slot array is canonical and lists slots only, and every buffered slot
has been written (10_state.md R23 "never read before it is written", R24, R25; 20_memory.md R53). -/
abbrev State.RingOk (s : State) : Prop :=
  s.head < s.cfg.N ∧ s.tail < s.cfg.N ∧ s.buf.wf = true ∧ (∀ c ∈ s.buf, c.1 < s.cfg.N) ∧
    ∀ i ∈ s.pendingSlots, (s.buf.read i).isSome = true

/-- `kickp[p]` implies `owner = p`; an owner is a producer with work left (10_state.md R32, R39 (i), (ii)). -/
abbrev State.LockOk (s : State) : Prop :=
  (∀ p ∈ s.producers, s.kickp p = true → s.owner = some p) ∧
    ∀ p ∈ s.owner.toList, p ∈ s.producers ∧ s.work p ≠ []

/-- If nothing is in flight and a byte is buffered, some producer is about to kick (10_state.md R39 (iii)). -/
abbrev State.StartOk (s : State) : Prop :=
  s.sending = false → s.head ≠ s.tail → ∃ p ∈ s.producers, s.kickp p = true

/-- Pending transactions are non-empty (10_state.md R30), but for one whose last byte is written and whose KICK is
still to come (R22). -/
def Sequencer.ok (q : Sequencer) : Bool :=
  match q.kick, q.work with
  | false, ts => decide ([] ∉ ts)
  | true, [] => false
  | true, _ :: ts => decide ([] ∉ ts)

/-- Every producer's pending transactions have the form of 10_state.md R22, R30. -/
abbrev State.WorkOk (s : State) : Prop := ∀ p ∈ s.producers, (s.seq p).ok = true

/-- `hb < T` (10_state.md R34). -/
abbrev State.HeartbeatOk (s : State) : Prop := s.hb.toNat < s.cfg.T

/-- The fault record and the marks are sets (10_state.md R35, 60_exceptions.md R202). -/
abbrev State.RecordsOk (s : State) : Prop := s.faults.Nodup ∧ s.refusals.Nodup

/-- The invariant of the block. -/
abbrev State.Inv (s : State) : Prop :=
  s.SizesOk ∧ s.RingOk ∧ s.LockOk ∧ s.StartOk ∧ s.WorkOk ∧ s.HeartbeatOk ∧ s.RecordsOk

end Sys2Proof.Machine
end

