-- ==== Sys2Proof/Certificates/Slice0/Obligations.lean ====
section
/-! DEFINITION. The statements for the provers, each a numbered rule of the spec or what follows from several. -/

open Sys2Proof Sys2Proof.Machine

/-! ## The whole machine -/

/-- The state after reset, and the one before the first RST, meet the invariant, and the former is quiet. The
configuration, the seeds and `cur` in it are the model's choice (notes/assumptions 1, 3, 4, 10). -/
def Obligations.ResetSatisfiesInvariant : Prop :=
  State.reset.Inv ∧ State.reset.Quiet ∧ State.powerOn.Inv

/-- Every step keeps the invariant: indices below N, canonical slot array, buffered slots written, lock and kick
discipline, non-empty transactions, `hb < T` (10_state.md R24, R25, R30, R32, R34, R39). -/
def Obligations.EveryStepKeepsInvariant : Prop :=
  ∀ s t : State, s.Inv → step s = .next t → t.Inv

/-- From a state with the invariant no step stops. No slot outside the ring is formed (20_memory.md R53). That a
fault, a refused word and a hold go on with a next state is the model's choice (notes/assumptions 7, 8, 11: DEDUCED;
60_exceptions.md R200 counts fault and refusal as outcomes of their own), as are the two stops ruled out here, a
slot outside the ring and a bad configuration (notes/assumptions 12, 9). -/
def Obligations.InvariantStatesNeverStop : Prop :=
  ∀ s : State, s.Inv → ∃ t, step s = .next t

/-- Who writes what (10_state.md R37): head and buf only P-ENQ, whose producer finds the lock free or its own and owns
it after; tail and sending only KICK (in a P-KICK) and TXC; owner only P-ENQ (acquire) and P-KICK (release: none after
it); hb only TICK; work and kickp only the producer's own steps and the acceptance of its operation; snap only the
acceptance of a PCHG of the group and the P-KICK that completes its invocation; cur only the acceptance of such a PCHG;
all of it RST. TXC writes neither head, buf, work, kickp nor owner. That the configuration is a field of State that no
step writes is the model's choice (notes/assumptions 1; 00_scope.md R6). -/
def Obligations.FieldWriters : Prop :=
  ∀ s t : State, step s = .next t →
    t.cfg = s.cfg ∧
    (t.head ≠ s.head ∨ t.buf ≠ s.buf → s.nextWrite.isSome = true ∨ s.runs = some .rst) ∧
    (t.tail ≠ s.tail ∨ t.sending ≠ s.sending →
      s.nextKick.isSome = true ∨ s.runs = some .txc ∨ s.runs = some .rst) ∧
    (t.owner ≠ s.owner → s.nextWrite.isSome = true ∨ (s.nextKick.isSome = true ∧ t.owner = none) ∨
      s.runs = some .rst) ∧
    (t.hb ≠ s.hb → s.runs = some .tick ∨ s.runs = some .rst) ∧
    (∀ p, t.seq p ≠ s.seq p →
      (∃ bs, s.nextWrite = some (p, bs)) ∨ s.nextKick = some p ∨
        (∃ i, s.runs = some i ∧ acceptor i = some p) ∨ s.runs = some .rst) ∧
    (∀ g, t.snap g ≠ s.snap g →
      (s.nextKick = some (.monitor g) ∧ s.work (.monitor g) = [[]]) ∨
        (∃ h v, s.runs = some (.pchg h v) ∧ h.toNat = g) ∨ s.runs = some .rst) ∧
    (∀ g, t.cur g ≠ s.cur g → (∃ h v, s.runs = some (.pchg h v) ∧ h.toNat = g) ∨ s.runs = some .rst) ∧
    (∀ p bs, s.nextWrite = some (p, bs) → (s.owner = none ∨ s.owner = some p) ∧ t.owner = some p) ∧
    (s.runs = some .txc →
      t.head = s.head ∧ t.buf = s.buf ∧ t.owner = s.owner ∧ ∀ p, t.seq p = s.seq p)

/-- The fault record, the refusal marks and the wire only grow, RST included; a fault is recorded only by a TXC
with no byte in flight (10_state.md R33, R35; 60_exceptions.md R201, R202). -/
def Obligations.RecordsOnlyGrow : Prop :=
  ∀ s t : State, step s = .next t →
    s.faults <+: t.faults ∧ s.refusals <+: t.refusals ∧ s.wire <+: t.wire ∧
    (t.faults ≠ s.faults → s.runs = some .txc ∧ s.sending = false)

/-! ## Decoding, and how a step runs an operation -/

/-- Decoding an encoded well-formed operation gives it back, every operand at every value
(30_encoding.md R70, R71, R73). -/
def Obligations.DecodeEncodeAgree : Prop :=
  ∀ (G : Nat) (i : Instr), i.wf G = true → decode G (encode i) = .ok i

/-- A word that decodes has one meaning: it is the encoding of the operation read, which is well formed. -/
def Obligations.DecodedWordEncodesBack : Prop :=
  ∀ (G : Nat) (w : OpWord) (i : Instr), decode G w = .ok i → encode i = w ∧ i.wf G = true

/-- The decoder, case by case (30_encoding.md R73). -/
def Obligations.DecoderIsTheTable : Prop :=
  ∀ (G : Nat) (w : OpWord),
    (decode G w = .ok .rst ↔ opcField w = 1 ∧ grpField w = 0 ∧ dataField w = 0) ∧
    (∀ b, decode G w = .ok (.enq b) ↔ opcField w = 2 ∧ grpField w = 0 ∧ dataField w = b) ∧
    (∀ g v, decode G w = .ok (.pchg g v) ↔
      opcField w = 3 ∧ grpField w = g ∧ dataField w = v ∧ (grpField w).toNat < G) ∧
    (decode G w = .ok .tick ↔ opcField w = 4 ∧ grpField w = 0 ∧ dataField w = 0) ∧
    (decode G w = .ok .txc ↔ opcField w = 5 ∧ grpField w = 0 ∧ dataField w = 0) ∧
    (decode G w = .error .reservedOp ↔ opcField w = 0 ∨ 6 ≤ (opcField w).toNat) ∧
    (decode G w = .error .badField ↔
      ((opcField w = 1 ∨ opcField w = 4 ∨ opcField w = 5) ∧ (grpField w ≠ 0 ∨ dataField w ≠ 0)) ∨
        (opcField w = 2 ∧ grpField w ≠ 0)) ∧
    (decode G w = .error .badGroup ↔ opcField w = 3 ∧ G ≤ (grpField w).toNat) ∧
    decode G w ≠ .error .badConfig ∧ decode G w ≠ .error .noReset

/-- A few words of 95_test_vectors.md 2.1, G = 3. -/
def Obligations.SpecWordsDecode : Prop :=
  decode 3 0x1000 = .ok .rst ∧ decode 3 0x2055 = .ok (.enq 0x55) ∧ decode 3 0x32FD = .ok (.pchg 2 0xFD) ∧
    decode 3 0x4000 = .ok .tick ∧ decode 3 0x5000 = .ok .txc ∧ decode 3 0x1100 = .error .badField ∧
    decode 3 0x33FF = .error .badGroup ∧ decode 3 0x0000 = .error .reservedOp

/-- The operations' words (30_encoding.md R82). -/
def Obligations.OperationWords : Prop :=
  ∀ (g : BitVec 4) (v b : Byte),
    encode .rst = 0x1000 ∧ encode (.enq b) = 0x2000 ||| b.setWidth 16 ∧
    encode (.pchg g v) = 0x3000 ||| (g.setWidth 16 <<< 8) ||| v.setWidth 16 ∧
    encode .tick = 0x4000 ∧ encode .txc = 0x5000

/-- A step whose choice is to take a presented word that decodes runs exactly that operation, the word taken out
of the inbox; where the operation is held, the word stays and nothing of the block changes (60_exceptions.md R203,
R206; the inbox is the model's, notes/assumptions/6.md). -/
def Obligations.StepRunsDecodedInstruction : Prop :=
  ∀ (s t : State) (k : Nat) (w : OpWord) (i : Instr),
    s.cfg.wf = true → s.choose = some (.accept k, t) → t.inbox[k]? = some (.word w) →
    decode t.cfg.G w = .ok i →
      (acceptHold i t = none → step s = exec i (t.consume k)) ∧
      (acceptHold i t ≠ none → step s = .next t)

/-- A word placed by `withFetchWord` is run by the very next step, and nothing but the placing has changed
(notes/assumptions/14.md). -/
def Obligations.PlacedWordRunsNext : Prop :=
  ∀ (s : State) (nbits w : Nat) (i : Instr),
    s.cfg.wf = true → decode s.cfg.G (tableWord nbits w) = .ok i → acceptHold i s = none →
      step (s.withFetchWord nbits w) = exec i s

/-- A refused word leaves its mark and changes no state of the block; the run goes on (30_encoding.md R74,
60_exceptions.md R202; notes/assumptions/8.md). -/
def Obligations.RefusedWordLeavesOnlyItsMark : Prop :=
  ∀ (s t : State) (k : Nat) (w : OpWord) (r : RefusalKind),
    s.cfg.wf = true → s.choose = some (.accept k, t) → t.inbox[k]? = some (.word w) →
    decode t.cfg.G w = .error r →
      step s = .next ((t.consume k).mark r) ∧ r ∈ ((t.consume k).mark r).refusals

/-- The `.seed` directive is no operation and supplies the port values of the next RST (30_encoding.md R83). That
it is an entry of `inbox` taken by a scheduled step, erased from there, and held in the field `seed` until that RST
is the model's choice (notes/assumptions 4, 6: DESIGN CHOICE). -/
def Obligations.SeedDirectiveSetsSeeds : Prop :=
  ∀ (s t : State) (k : Nat) (vs : List Byte),
    s.cfg.wf = true → s.choose = some (.accept k, t) → t.inbox[k]? = some (.seed vs) →
      step s = .next { t with inbox := t.inbox.eraseIdx k, seed := vs }

/-- Every step is refused as BAD_CONFIG exactly when the configuration is not well formed (00_scope.md R7,
60_exceptions.md R202; notes/assumptions/9.md). -/
def Obligations.BadConfigurationAlwaysRefused : Prop :=
  ∀ s : State, step s = .refused .badConfig ↔ s.cfg.wf = false

/-- The configuration check says what 00_scope.md R7 says (and R6: one binding list per group). -/
def Obligations.ConfigurationCheckIsRule : Prop :=
  ∀ c : Config, c.wf = true ↔
    (2 ≤ c.N ∧ c.N ≤ 256) ∧ (1 ≤ c.G ∧ c.G ≤ 16 ∧ c.W = 8 ∧ c.bind.length = c.G) ∧
    (∀ bs ∈ c.bind, ∀ x ∈ bs, ∃ i, i < 8 ∧ x.mask = BitVec.twoPow 8 i) ∧
    (∀ bs ∈ c.bind, bs.Pairwise fun x y => x.mask ≠ y.mask) ∧
    (∀ cmd : Command, cmd ≠ .heartbeat → (c.bind.flatten.filter fun x => x.cmd = cmd).length = 1) ∧
    (∀ x ∈ c.bind.flatten, x.cmd ≠ .heartbeat) ∧
    (1 ≤ c.T ∧ c.T ≤ 65535)

/-- Before the first RST every other operation is refused with NO_RESET (70_reset_and_hazards.md R240). -/
def Obligations.OperationsBeforeFirstResetRefused : Prop :=
  ∀ (s : State) (i : Instr), s.resetDone = false → i ≠ .rst → i.wf s.cfg.G = true →
    exec i s = .next (s.mark .noReset) ∧ SameRing s (s.mark .noReset) ∧ SameMonitors s (s.mark .noReset) ∧
      SameInputs s (s.mark .noReset)

/-- The step of the plan is the step taken. The plan is the model's choice (notes/assumptions 5: DESIGN CHOICE), its
form of "any enabled step may be taken next" (60_exceptions.md R205), which speaks of no plan. -/
def Obligations.PlannedStepIsTaken : Prop :=
  ∀ (s : State) (c : Choice) (cs : List Choice), s.cfg.wf = true → s.plan = c :: cs →
    step s = perform c { s with plan := cs }

/-- With no plan, the free policy takes one of the enabled steps, which one it does not say, and waits only where
none is enabled (60_exceptions.md R205; notes/assumptions/5.md). It holds for every free value. -/
def Obligations.FreePolicyTakesAnEnabledStep : Prop :=
  ∀ s : State, s.plan = [] → s.policy = .free →
    (s.choose = none ↔ s.enabledChoices = []) ∧
    ∀ c t, s.choose = some (c, t) → c ∈ s.enabledChoices

/-- With no plan, the reference schedule presents the next input only when no producer's step is enabled, takes
the producers in the order M, E(0), E(1), ..., and waits only where none is enabled and no input is left
(95_test_vectors.md, reference schedule). -/
def Obligations.ReferenceScheduleOrder : Prop :=
  ∀ s : State, s.plan = [] → s.policy = .eager →
    (s.choose = none ↔ (∀ p ∈ s.producers, producerEnabled s p = false) ∧ s.inbox = []) ∧
    ∀ (t : State) (c : Choice), s.choose = some (c, t) →
      (∃ (k : Nat) (p : Producer), c = .producer p ∧ s.producers[k]? = some p ∧ producerEnabled s p = true ∧
        ∀ (j : Nat) (q : Producer), j < k → s.producers[j]? = some q → producerEnabled s q = false) ∨
      (c = .accept 0 ∧ s.inbox ≠ [] ∧ ∀ p ∈ s.producers, producerEnabled s p = false)

/-- An operation is held exactly when its producer is busy; RST and TXC are never held (60_exceptions.md R203,
R204; before the first RST an operation is refused instead, R240). -/
def Obligations.AcceptanceHeldIffBusy : Prop :=
  (∀ (i : Instr) (s : State), s.resetDone = true →
    (acceptHold i s ≠ none ↔ ∃ p, acceptor i = some p ∧ s.busy p = true)) ∧
  (∀ s : State, acceptHold .rst s = none ∧ acceptHold .txc s = none) ∧
  ∀ (g : BitVec 4) (v b : Byte), acceptor (.pchg g v) = some (.monitor g.toNat) ∧ acceptor .tick = some .main ∧
    acceptor (.enq b) = some .main

/-! ## RST -/

/-- RST is accepted in every state and every field has the value of 10_state.md R41 after it; `buf` and `cur` hold
any byte, so nothing is said of them; `faults` and `wire` are unchanged, and empty at power-on. -/
def Obligations.RstResult : Prop :=
  (∀ s : State, ∃ t, exec .rst s = .next t ∧
    t.head = 0 ∧ t.tail = 0 ∧ t.sending = false ∧
    (∀ g v, g < s.cfg.G → s.seed[g]? = some v → t.snap g = v) ∧
    (∀ p, t.work p = [] ∧ t.kickp p = false) ∧
    t.owner = none ∧ t.hb = 0 ∧ t.faults = s.faults ∧ t.wire = s.wire ∧
    t.mon.length = s.cfg.G ∧ t.resetDone = true) ∧
  State.reset.faults = [] ∧ State.reset.wire = []

/-- What RST leaves: the configuration, the wire and the records. That it leaves the presented inputs, the plan and
the policy too is the model's choice (notes/assumptions 22: DESIGN CHOICE). -/
def Obligations.RstFrame : Prop :=
  ∀ s t : State, exec .rst s = .next t →
    t.cfg = s.cfg ∧ t.wire = s.wire ∧ t.faults = s.faults ∧ t.refusals = s.refusals ∧ t.inbox = s.inbox ∧
      t.plan = s.plan ∧ t.policy = s.policy

/-- RST abandons the byte in flight: it stays on the wire, and a TXC after RST finds `sending = false` and faults
(42_heartbeat_and_system.md R162, 70_reset_and_hazards.md R250). -/
def Obligations.RstAbandonsByteInFlight : Prop :=
  ∀ s t : State, exec .rst s = .next t →
    t.wire = s.wire ∧ exec .txc t = .next (t.recordFault .spuriousTxc 0x5000)

/-- RST twice is RST once with the second seeds, but for the bytes that may be any
(42_heartbeat_and_system.md R162). -/
def Obligations.RstTwiceIsRstOnce : Prop :=
  ∀ (s t u v : State) (vs : List Byte), vs.length = s.cfg.G → exec .rst s = .next t →
    exec .rst (t.withSeed vs) = .next u → exec .rst (s.withSeed vs) = .next v →
      u.head = v.head ∧ u.tail = v.tail ∧ u.sending = v.sending ∧ u.owner = v.owner ∧ u.hb = v.hb ∧
      (∀ g, g < s.cfg.G → u.snap g = v.snap g) ∧ (∀ p, u.seq p = v.seq p) ∧
      u.wire = v.wire ∧ u.faults = v.faults ∧ u.refusals = v.refusals

/-! ## ENQ -/

/-- ENQ b (40_ring_buffer.md R106): idle M gets the one transaction `[b]`; a busy M holds the operation. -/
def Obligations.EnqResult : Prop :=
  ∀ (b : Byte) (s : State), s.resetDone = true →
    (s.busy .main = false → ∃ t, exec (.enq b) s = .next t ∧ t.work .main = [[b]] ∧
      t.kickp .main = false ∧ t.sending = s.sending) ∧
    (s.busy .main = true → exec (.enq b) s = .next s)

/-- What ENQ leaves: everything but `work[M]` (and, before the first RST, the refusal marks). -/
def Obligations.EnqFrame : Prop :=
  ∀ (b : Byte) (s t : State), exec (.enq b) s = .next t →
    SameRing s t ∧ SameMonitors s t ∧ SameInputs s t ∧ t.kickp .main = s.kickp .main ∧ t.owner = s.owner ∧
      t.hb = s.hb ∧ t.wire = s.wire ∧ t.faults = s.faults ∧ (s.resetDone = true → t.refusals = s.refusals)

/-- ENQ, P-ENQ, P-KICK with nothing in flight and an empty ring: the byte is written and handed to the transmitter
at once (40_ring_buffer.md R106, its example). -/
def Obligations.EnqOnIdleBlockTransmits : Prop :=
  ∀ (b : Byte) (s : State), s.Inv → s.Quiet → s.resetDone = true → s.sending = false →
    ∃ t, enqueueByte b s = .next t ∧ t.sending = true ∧ t.wire = s.wire ++ [b] ∧ t.empty = true ∧
      t.busy .main = false ∧ t.owner = none ∧ t.slotByte s.head = b

/-- Three enqueues with no completion (40_ring_buffer.md R112): `sending`, one byte handed over, two buffered. -/
def Obligations.ThreeEnqueuesScenario : Prop :=
  ∀ (a b c : Byte) (s : State), s.Inv → s.Quiet → s.resetDone = true → s.sending = false → 3 ≤ s.cfg.N →
    ∃ t u v, enqueueByte a s = .next t ∧ enqueueByte b t = .next u ∧ enqueueByte c u = .next v ∧
      v.sending = true ∧ v.wire = s.wire ++ [a] ∧ v.count = 2 ∧ v.pending = [b, c]

/-! ## PCHG -/

/-- PCHG g, v (41_edge_monitor.md R131): with `E(g)` idle, the events are the commands of the bindings with a
changed bit that is now clear, in list order, each as its frame; `cur[g]` is `v`; with no event `snap[g]` becomes
`v` in the same step, else it stays. A busy `E(g)` holds the operation. -/
def Obligations.PchgResult : Prop :=
  ∀ (g : BitVec 4) (v : Byte) (s : State), s.resetDone = true → g.toNat < s.cfg.G → s.mon.length = s.cfg.G →
    (s.busy (.monitor g.toNat) = false → ∃ t evs, exec (.pchg g v) s = .next t ∧
      evs = ((s.cfg.bindings g.toNat).filter fun x =>
        decide ((v ^^^ s.snap g.toNat) &&& x.mask ≠ 0 ∧ v &&& x.mask = 0)).map Binding.cmd ∧
      t.work (.monitor g.toNat) = evs.map frame ∧ t.kickp (.monitor g.toNat) = false ∧ t.cur g.toNat = v ∧
      t.snap g.toNat = if evs = [] then v else s.snap g.toNat) ∧
    (s.busy (.monitor g.toNat) = true → exec (.pchg g v) s = .next s)

/-- What PCHG g leaves: everything but the registers of `E(g)` (and, where it is refused, the marks). -/
def Obligations.PchgFrame : Prop :=
  ∀ (g : BitVec 4) (v : Byte) (s t : State), exec (.pchg g v) s = .next t →
    SameRing s t ∧ SameButGroup g.toNat s t ∧ SameInputs s t ∧ t.owner = s.owner ∧ t.hb = s.hb ∧
      t.wire = s.wire ∧ t.faults = s.faults ∧
      (s.resetDone = true → g.toNat < s.cfg.G → t.refusals = s.refusals)

/-- The falling-edge predicate at a one-hot mask is "was 1, is 0" (41_edge_monitor.md R132 and its truth table). -/
def Obligations.FallIsHighToLow : Prop :=
  ∀ (snap v : Byte) (i : Nat), i < 8 →
    fall (v ^^^ snap) v (BitVec.twoPow 8 i) = (snap.getLsbD i && !v.getLsbD i)

/-- The edge law (41_edge_monitor.md R136, R137): an accepted PCHG enqueues the command of a binding exactly when
its pin was 1 in the snapshot and is 0 in the value read. -/
def Obligations.EventIffPressed : Prop :=
  ∀ (g : BitVec 4) (v : Byte) (s t : State) (x : Binding) (i : Nat),
    s.cfg.wf = true → s.resetDone = true → g.toNat < s.cfg.G → s.mon.length = s.cfg.G →
    s.busy (.monitor g.toNat) = false → x ∈ s.cfg.bindings g.toNat → i < 8 → x.mask = BitVec.twoPow 8 i →
    exec (.pchg g v) s = .next t →
      (frame x.cmd ∈ t.work (.monitor g.toNat) ↔
        (s.snap g.toNat).getLsbD i = true ∧ v.getLsbD i = false)

/-- The snapshot is the value the last ended invocation read (10_state.md R28, 41_edge_monitor.md R131, R134, R135).
An invocation of `g` ends with the P-KICK of its last transaction, or with its own acceptance where it has no event.
Only RST and such an end change `snap[g]`, every such end makes it the whole value read, and `cur[g]` is the value
the last accepted PCHG of `g` read. -/
def Obligations.SnapshotIsLastCompletedRead : Prop :=
  ∀ (s t : State) (g : Nat), s.Inv → g < s.cfg.G → step s = .next t →
    (t.snap g ≠ s.snap g → s.runs = some .rst ∨
      (s.nextKick = some (.monitor g) ∧ s.work (.monitor g) = [[]]) ∨
      ∃ h v, s.runs = some (.pchg h v) ∧ h.toNat = g ∧ s.eventsAt g v = []) ∧
    (s.nextKick = some (.monitor g) → s.work (.monitor g) = [[]] →
      t.snap g = s.cur g ∧ t.cur g = s.cur g ∧ t.busy (.monitor g) = false) ∧
    (∀ h v, s.resetDone = true → s.runs = some (.pchg h v) → h.toNat = g →
      t.cur g = v ∧
      (s.eventsAt g v = [] → t.snap g = v ∧ t.busy (.monitor g) = false) ∧
      (s.eventsAt g v ≠ [] → t.snap g = s.snap g ∧ t.busy (.monitor g) = true)) ∧
    (t.cur g ≠ s.cur g → s.runs = some .rst ∨ ∃ h v, s.runs = some (.pchg h v) ∧ h.toNat = g)

/-- The edge law over two reads (41_edge_monitor.md R137): an accepted PCHG reads `v₁`, or RST takes the seed `v₁`; `k`
steps follow with no RST and no PCHG of the group accepted; then a PCHG that reads `v₂` is accepted. It enqueues the
command of a binding exactly when its pin is 1 in `v₁` and 0 in `v₂`. -/
def Obligations.EdgeLawOverTwoReads : Prop :=
  ∀ (k : Nat) (s u t w : State) (g : BitVec 4) (v₁ v₂ : Byte) (x : Binding) (i : Nat),
    s.Inv → ((s.runs = some (.pchg g v₁) ∧ s.resetDone = true) ∨
      (s.runs = some .rst ∧ s.seed[g.toNat]? = some v₁)) → step s = .next u →
    runsOnly (notRstOrGroup g.toNat) k u = true → runSteps k u = .next t →
    t.runs = some (.pchg g v₂) → step t = .next w →
    x ∈ s.cfg.bindings g.toNat → i < 8 → x.mask = BitVec.twoPow 8 i →
      (frame x.cmd ∈ w.work (.monitor g.toNat) ↔ v₁.getLsbD i = true ∧ v₂.getLsbD i = false)

/-! ## TICK -/

/-- TICK (42_heartbeat_and_system.md R160): at the threshold the counter is reset and M gets one heartbeat event,
below it the counter goes up by one; a busy M holds the operation. -/
def Obligations.TickResult : Prop :=
  ∀ s : State, s.resetDone = true →
    (s.busy .main = false → s.cfg.T ≤ s.hb.toNat + 1 →
      ∃ t, exec .tick s = .next t ∧ t.hb = 0 ∧ t.work .main = [[0x48, 0x0A]] ∧ t.kickp .main = false) ∧
    (s.busy .main = false → s.hb.toNat + 1 < s.cfg.T →
      ∃ t, exec .tick s = .next t ∧ t.hb = s.hb + 1 ∧ t.work .main = [] ∧ t.kickp .main = false) ∧
    (s.busy .main = true → exec .tick s = .next s)

/-- What TICK leaves: everything but `hb` and `work[M]` (and, before the first RST, the refusal marks). -/
def Obligations.TickFrame : Prop :=
  ∀ s t : State, exec .tick s = .next t →
    SameRing s t ∧ SameMonitors s t ∧ SameInputs s t ∧ t.kickp .main = s.kickp .main ∧ t.owner = s.owner ∧
      t.wire = s.wire ∧ t.faults = s.faults ∧ (s.resetDone = true → t.refusals = s.refusals)

/-- The heartbeat law (42_heartbeat_and_system.md R161): from `hb = 0` the k-th accepted TICK emits a heartbeat
event iff `T` divides `k`, and `hb = k mod T` after it. -/
def Obligations.HeartbeatEveryThreshold : Prop :=
  ∀ (k : Nat) (s : State), s.resetDone = true → s.hb = 0 → 1 ≤ s.cfg.T → s.cfg.T ≤ 65535 →
    ∃ t, acceptedTicks (k + 1) s = .next t ∧ t.hb.toNat = (k + 1) % s.cfg.T ∧
      t.work .main = if (k + 1) % s.cfg.T = 0 then [frame .heartbeat] else []

/-! ## TXC -/

/-- TXC (40_ring_buffer.md R105): with no byte in flight the fault is recorded, beside what the record holds, and
nothing else changes; with one in flight the next buffered byte is handed off and `sending` stays true, or, with the ring empty, `sending` becomes
false. -/
def Obligations.TxcResult : Prop :=
  ∀ s : State, s.resetDone = true →
    (s.sending = false → ∃ t, exec .txc s = .next t ∧
      t = { s with faults := addOnce ⟨.spuriousTxc, 0x5000⟩ s.faults } ∧
      ∀ r, r ∈ t.faults ↔ r ∈ s.faults ∨ r = ⟨.spuriousTxc, 0x5000⟩) ∧
    (s.sending = true → s.head ≠ s.tail → s.tail < s.cfg.N →
      exec .txc s = .next { s with
        tail := (s.tail + 1) % s.cfg.N, sending := true, wire := s.wire ++ [s.slotByte s.tail] }) ∧
    (s.sending = true → s.head = s.tail → exec .txc s = .next { s with sending := false })

/-- What TXC leaves: `head`, every slot, the producers, the monitors, the lock, the counter; `tail`, `sending` and
the wire when it faults. -/
def Obligations.TxcFrame : Prop :=
  ∀ s t : State, exec .txc s = .next t →
    t.head = s.head ∧ (∀ i, t.memRead i = s.memRead i ∧ t.slotByte i = s.slotByte i) ∧
      (∀ p, t.seq p = s.seq p) ∧ SameMonitors s t ∧ SameInputs s t ∧ t.owner = s.owner ∧ t.hb = s.hb ∧
      (s.sending = false → t.tail = s.tail ∧ t.sending = s.sending ∧ t.wire = s.wire) ∧
      (s.sending = true → t.faults = s.faults) ∧ (s.resetDone = true → t.refusals = s.refusals)

/-- TXC is never held by producer state and does not see it (70_reset_and_hazards.md R247, R248): whatever the
producers and the lock, it does the same to the rest. -/
def Obligations.TxcIgnoresProducers : Prop :=
  ∀ (s : State) (m : Sequencer) (ms : List Monitor) (o : Option Producer),
    acceptHold .txc s = none ∧
    exec .txc { s with main := m, mon := ms, owner := o } =
      andThen (exec .txc s) fun t => .next { t with main := m, mon := ms, owner := o }

/-! ## The internal steps of the ring -/

/-- P-ENQ (40_ring_buffer.md R102): held while another producer owns the lock, held while the ring is full; else
the byte is written at `head`, `head` advances modulo N, the lock is taken, and `kickp` is set; no other slot, no
other producer and neither `tail` nor `sending` changes. -/
def Obligations.PEnqResult : Prop :=
  ∀ (s : State) (p : Producer) (b : Byte) (bs : List Byte) (ts : List (List Byte)),
    p ∈ s.producers → s.mon.length = s.cfg.G → s.kickp p = false → s.work p = (b :: bs) :: ts →
    (s.owner ≠ none ∧ s.owner ≠ some p → producerStep p s = .next s) ∧
    ((s.owner = none ∨ s.owner = some p) → (s.head + 1) % s.cfg.N = s.tail → producerStep p s = .next s) ∧
    ((s.owner = none ∨ s.owner = some p) → (s.head + 1) % s.cfg.N ≠ s.tail → s.head < s.cfg.N →
      ∃ t, producerStep p s = .next t ∧ t.slotByte s.head = b ∧ t.head = (s.head + 1) % s.cfg.N ∧
        t.owner = some p ∧ t.work p = bs :: ts ∧ t.kickp p = true ∧
        t.tail = s.tail ∧ t.sending = s.sending ∧ t.wire = s.wire ∧ t.hb = s.hb ∧ t.faults = s.faults ∧
        t.refusals = s.refusals ∧ SameInputs s t ∧
        (∀ i, i ≠ s.head → t.memRead i = s.memRead i ∧ t.slotByte i = s.slotByte i) ∧
        (∀ q, q ≠ p → t.seq q = s.seq q) ∧ ∀ g, t.snap g = s.snap g ∧ t.cur g = s.cur g)

/-- KICK (40_ring_buffer.md R104): start if idle, else no state changes. -/
def Obligations.KickResult : Prop :=
  ∀ s : State,
    (s.sending = false → s.head ≠ s.tail → s.tail < s.cfg.N →
      kick s = .next { s with
        tail := (s.tail + 1) % s.cfg.N, sending := true, wire := s.wire ++ [s.slotByte s.tail] }) ∧
    (s.sending = true ∨ s.head = s.tail → kick s = .next s)

/-- P-KICK (40_ring_buffer.md R103): KICK, then `kickp` is cleared; at the end of a transaction it leaves `work`
and the lock is released; at the end of a group's invocation the snapshot is updated. -/
def Obligations.PKickResult : Prop :=
  ∀ (s u : State) (p : Producer), p ∈ s.producers → s.mon.length = s.cfg.G → s.kickp p = true →
    kick s = .next u →
    ∃ t, producerStep p s = .next t ∧ t.kickp p = false ∧
      t.head = u.head ∧ t.tail = u.tail ∧ t.sending = u.sending ∧ t.wire = u.wire ∧ t.hb = s.hb ∧
      t.faults = s.faults ∧ t.refusals = s.refusals ∧ SameInputs s t ∧
      (∀ i, t.memRead i = s.memRead i ∧ t.slotByte i = s.slotByte i) ∧
      (∀ q, q ≠ p → t.seq q = s.seq q) ∧ (∀ g, t.cur g = s.cur g) ∧
      (∀ ts, s.work p = [] :: ts → t.work p = ts ∧ t.owner = none) ∧
      ((∀ ts, s.work p ≠ [] :: ts) → t.work p = s.work p ∧ t.owner = s.owner) ∧
      ∀ g, t.snap g = if p = .monitor g ∧ s.work p = [[]] then s.cur g else s.snap g

/-! ## Laws of the ring -/

/-- The derived status (10_state.md R27) and the capacity (40_ring_buffer.md R107). -/
def Obligations.RingCapacity : Prop :=
  ∀ s : State, s.Inv →
    s.count ≤ s.cfg.N - 1 ∧ s.pending.length = s.count ∧
    (s.empty = true ↔ s.count = 0) ∧ (s.full = true ↔ s.count = s.cfg.N - 1) ∧
    ¬ (s.empty = true ∧ s.full = true)

/-- One step of the FIFO (40_ring_buffer.md R107, R108): the written byte joins the end of the buffered ones, or
the first buffered byte leaves to the wire; no buffered byte is overwritten, lost or sent twice. -/
def Obligations.ByteLeavesOnceInOrder : Prop :=
  ∀ s t : State, s.Inv → step s = .next t → s.runs ≠ some .rst →
    (t.wire = s.wire ∧ t.pending = s.pending ++ s.writes) ∨
    ∃ b, s.pending = b :: t.pending ∧ t.wire = s.wire ++ [b] ∧ s.writes = []

/-- FIFO and exactly once over every run without RST (40_ring_buffer.md R108): `txlog ++ pending = enqlog`. -/
def Obligations.FifoExactlyOnce : Prop :=
  ∀ (k : Nat) (s t : State), s.Inv → runsOnly notRst k s = true → runSteps k s = .next t →
    t.wire ++ t.pending = s.wire ++ s.pending ++ enqLog k s

/-- At most one byte in flight (40_ring_buffer.md R109): a byte is handed over only by a KICK that found
`sending = false` or by a TXC, one byte a step, and `sending` is true after it. -/
def Obligations.NoDoubleStart : Prop :=
  ∀ s t : State, step s = .next t →
    t.wire = s.wire ∨
    ∃ b, t.wire = s.wire ++ [b] ∧ t.sending = true ∧
      ((s.sending = false ∧ s.nextKick.isSome = true) ∨ (s.sending = true ∧ s.runs = some .txc))

/-- A buffered byte needs no further trigger (40_ring_buffer.md R110): with nothing in flight, some producer is
about to kick, and its P-KICK hands the first buffered byte over. -/
def Obligations.BufferedByteStartsWithoutTrigger : Prop :=
  ∀ s : State, s.Inv → s.sending = false → s.head ≠ s.tail →
    ∃ p ∈ s.producers, s.kickp p = true ∧
      ∃ t b bs, producerStep p s = .next t ∧ s.pending = b :: bs ∧ t.sending = true ∧ t.wire = s.wire ++ [b]

/-- No deadlock while completions keep coming (20_memory.md R58, 40_ring_buffer.md R111): with a producer busy,
some producer's step is enabled, or the ring is full with a byte in flight, whose TXC enables one. -/
def Obligations.NoDeadlock : Prop :=
  ∀ (s : State) (p : Producer), s.Inv → s.resetDone = true → p ∈ s.producers → s.busy p = true →
    (∃ q ∈ s.producers, producerEnabled s q = true) ∨
    (s.full = true ∧ s.sending = true ∧
      ∃ t, exec .txc s = .next t ∧ ∃ q ∈ t.producers, producerEnabled t q = true)

/-- Every enabled producer step completes and lowers what is left to do, so producers finish
(60_exceptions.md R214 F2, 40_ring_buffer.md R111). -/
def Obligations.ProducerStepsLowerDebt : Prop :=
  ∀ (s : State) (p : Producer), s.Inv → p ∈ s.producers → producerEnabled s p = true →
    ∃ t, producerStep p s = .next t ∧ t.debt < s.debt

/-- With a byte in flight, one TXC for it and one for each buffered byte send everything buffered, in order, and
leave the transmitter idle with no fault (40_ring_buffer.md R105, R111). -/
def Obligations.DrainSendsEveryBufferedByte : Prop :=
  ∀ s : State, s.Inv → s.resetDone = true → s.sending = true →
    ∃ t, drain (s.count + 1) s = .next t ∧ t.wire = s.wire ++ s.pending ∧ t.sending = false ∧
      t.empty = true ∧ t.faults = s.faults

/-- A transmitter that gives no TXC stalls the block (60_exceptions.md R215): with a byte in flight, every step
but TXC and RST leaves `sending` true, `tail` and the wire. -/
def Obligations.NoCompletionNoProgress : Prop :=
  ∀ s t : State, s.sending = true → step s = .next t → s.runs ≠ some .txc → s.runs ≠ some .rst →
    t.sending = true ∧ t.tail = s.tail ∧ t.wire = s.wire

/-- The producer lock (40_ring_buffer.md R101, R113): only the owner, or anyone when there is none, writes a byte,
and the owner keeps the lock until its P-KICK after the transaction's last byte, or RST. -/
def Obligations.LockHeldToEndOfTransaction : Prop :=
  ∀ s t : State, s.Inv → step s = .next t →
    (∀ p bs, s.nextWrite = some (p, bs) → (s.owner = none ∨ s.owner = some p) ∧ t.owner = some p) ∧
    ∀ q, s.owner = some q → t.owner = some q ∨ s.runs = some .rst ∨
      (s.nextKick = some q ∧ (∃ ts, s.work q = [] :: ts) ∧ t.owner = none)

/-- The round trip (40_ring_buffer.md R115): from a quiet state, in every run with no RST and no ENQ, what a reader
makes of the bytes sent and buffered is the sequence of the events begun, in order. -/
def Obligations.WireReadsBackEvents : Prop :=
  ∀ (k : Nat) (s t : State), s.Inv → s.Quiet → runsOnly notRstOrEnq k s = true → runSteps k s = .next t →
    readEvents (t.wire.drop s.wire.length ++ t.pending) = commandLog k s

/-! ## The encoder and the status view -/

/-- The command codes (30_encoding.md R77), the terminator (R78) and the frame (R79): the seven codes are distinct
and none is the terminator. The byte values and which command takes which letter are PRESUMED (notes/assumptions
16): the spec calls them its own reading, from general knowledge (decisions D28, D29). -/
def Obligations.EncoderCodes : Prop :=
  enc .up = 0x55 ∧ enc .down = 0x44 ∧ enc .right = 0x52 ∧ enc .left = 0x4C ∧ enc .actionA = 0x41 ∧
    enc .actionB = 0x42 ∧ enc .heartbeat = 0x48 ∧ lineFeed = 0x0A ∧
    (∀ c d, enc c = enc d → c = d) ∧ (∀ c, enc c ≠ lineFeed) ∧ ∀ c, frame c = [enc c, 0x0A]

/-- A reader of the wire splits a sequence of frames into the commands they were made of (30_encoding.md R79,
R80). -/
def Obligations.FramesReadBack : Prop :=
  ∀ cs : List Command, readEvents (cs.map frame).flatten = cs

/-- The pseudo-instructions' words, and that `.seed` is no operation (30_encoding.md R83). That the directive becomes
one inbox entry, with any number of values, is the model's choice (notes/assumptions 4, 6, 20: DESIGN CHOICE); R83's
form has exactly `G` values. -/
def Obligations.PseudoInstructionsExpand : Prop :=
  ∀ (text vs : List Byte) (n : Nat),
    (ProgramLine.send text).expand = text.map (fun b => Input.word (0x2000 + b.setWidth 16)) ∧
    (ProgramLine.ticks n).expand = List.replicate n (Input.word 0x4000) ∧
    (ProgramLine.drain n).expand = List.replicate n (Input.word 0x5000) ∧
    (ProgramLine.seed vs).expand = [Input.seed vs]

/-- The status view, register by register, its reserved numbers, and its values after RST (10_state.md R40). -/
def Obligations.StatusViewContents : Prop :=
  ∀ s : State, s.cfg.wf = true → s.head < s.cfg.N → s.tail < s.cfg.N →
    s.view 0x00 = some (BitVec.ofNat 16 s.head) ∧ s.view 0x01 = some (BitVec.ofNat 16 s.tail) ∧
    (∃ w, s.view 0x02 = some w ∧ w.getLsbD 0 = s.sending ∧ w.getLsbD 1 = s.empty ∧ w.getLsbD 2 = s.full ∧
      w.getLsbD 3 = decide (s.owner ≠ none) ∧ w.getLsbD 4 = s.busy .main ∧
      ∀ i, 5 ≤ i → w.getLsbD i = false) ∧
    s.view 0x03 = some s.hb ∧
    (∃ w, s.view 0x04 = some w ∧
      ∀ i, i < 16 → w.getLsbD i = (decide (i < s.cfg.G) && s.busy (.monitor i))) ∧
    (∀ g, g < s.cfg.G → s.view (0x10 + g) = some ((s.snap g).setWidth 16)) ∧
    (∀ i, i < s.cfg.N → s.view (0x100 + i) = some ((s.slotByte i).setWidth 16)) ∧
    (∀ n, (5 ≤ n ∧ n < 0x10) ∨ (0x10 + s.cfg.G ≤ n ∧ n < 0x100) ∨ 0x100 + s.cfg.N ≤ n → s.view n = none) ∧
    ∀ t, exec .rst s = .next t →
      t.view 0x00 = some 0 ∧ t.view 0x01 = some 0 ∧ t.view 0x02 = some 0x02 ∧ t.view 0x03 = some 0 ∧
      t.view 0x04 = some 0 ∧
      ∀ g v, g < s.cfg.G → s.seed[g]? = some v → t.view (0x10 + g) = some (v.setWidth 16)
end

