-- ==== Sys2Proof/Laws/Encoding.lean ====
section
/-! SUPPORT. The three fields of an operation word (30_encoding.md R70): read back from a word built from them,
and together the whole word. -/

namespace Sys2Proof

@[simp] theorem opcField_opWord (o g : BitVec 4) (d : Byte) : opcField (opWord o g d) = o := by
  apply BitVec.eq_of_toNat_eq
  simp only [opcField, opWord, BitVec.extractLsb'_toNat, BitVec.toNat_ofNat, Nat.shiftRight_eq_div_pow]
  omega

@[simp] theorem grpField_opWord (o g : BitVec 4) (d : Byte) : grpField (opWord o g d) = g := by
  apply BitVec.eq_of_toNat_eq
  simp only [grpField, opWord, BitVec.extractLsb'_toNat, BitVec.toNat_ofNat, Nat.shiftRight_eq_div_pow]
  omega

@[simp] theorem dataField_opWord (o g : BitVec 4) (d : Byte) : dataField (opWord o g d) = d := by
  apply BitVec.eq_of_toNat_eq
  simp only [dataField, opWord, BitVec.extractLsb'_toNat, BitVec.toNat_ofNat, Nat.shiftRight_eq_div_pow]
  omega

/-- A word is its three fields. -/
theorem opWord_fields (w : OpWord) : opWord (opcField w) (grpField w) (dataField w) = w := by
  apply BitVec.eq_of_toNat_eq
  simp only [opcField, grpField, dataField, opWord, BitVec.extractLsb'_toNat, BitVec.toNat_ofNat,
    Nat.shiftRight_eq_div_pow]
  omega

end Sys2Proof
end

