-- ==== Sys2Proof/Laws/Memory.lean ====
section
/-! SUPPORT. The slot array: a read after a write, and that a write keeps the canonical form. -/

namespace Sys2Proof.Machine

/-- A slot written reads as what was written. -/
@[simp] theorem Memory.read_write_same (m : Memory) (i : Nat) (v : Byte) :
    (Memory.write m i v).read i = some v := by
  induction m with
  | nil => simp [Memory.write, Memory.read]
  | cons c m ih =>
    obtain ⟨a, b⟩ := c
    by_cases h1 : i < a
    · simp [Memory.write, Memory.read, h1]
    · by_cases h2 : i = a
      · simp [Memory.write, Memory.read, h2]
      · have h3 : a ≠ i := fun h => h2 h.symm
        simp [Memory.write, Memory.read, h1, h2, h3, ih]

/-- Writing one slot leaves every other slot alone. -/
theorem Memory.read_write_other (m : Memory) {i j : Nat} (v : Byte) (h : j ≠ i) :
    (Memory.write m i v).read j = m.read j := by
  have h' : i ≠ j := fun e => h e.symm
  induction m with
  | nil => simp [Memory.write, Memory.read, h']
  | cons c m ih =>
    obtain ⟨a, b⟩ := c
    by_cases h1 : i < a
    · simp [Memory.write, Memory.read, h1, h']
    · by_cases h2 : i = a
      · subst h2
        simp [Memory.write, Memory.read, h']
      · simp [Memory.write, Memory.read, h1, h2, ih]

/-- A write lists no index but the one written and those listed before. -/
theorem Memory.mem_write {m : Memory} {i : Nat} {v : Byte} {c : Host.Cell} (h : c ∈ Memory.write m i v) :
    c = (i, v) ∨ c ∈ m := by
  induction m with
  | nil => simpa [Memory.write] using h
  | cons d m ih =>
    obtain ⟨a, b⟩ := d
    by_cases h1 : i < a
    · simpa [Memory.write, h1] using h
    · by_cases h2 : i = a
      · simp [Memory.write, h2] at h
        rcases h with h | h
        · exact .inl (by simp [h, h2])
        · exact .inr (by simp [h])
      · simp [Memory.write, h1, h2] at h
        rcases h with h | h
        · exact .inr (by simp [h])
        · rcases ih h with h | h
          · exact .inl h
          · exact .inr (by simp [h])

/-- An index listed nowhere above `lo` stays so under a write above `lo`. -/
theorem Memory.above_write {m : Memory} {lo i : Nat} {v : Byte} (hm : Memory.above lo m = true) (hi : lo < i) :
    Memory.above lo (Memory.write m i v) = true := by
  simp only [Memory.above, List.all_eq_true, decide_eq_true_eq] at hm ⊢
  intro c hc
  rcases Memory.mem_write hc with rfl | h
  · exact hi
  · exact hm c h

/-- Every write keeps the canonical form of the slot array. -/
theorem Memory.write_wf {m : Memory} (i : Nat) (v : Byte) (h : Memory.wf m = true) :
    Memory.wf (Memory.write m i v) = true := by
  induction m with
  | nil => simp [Memory.write, Memory.wf, Memory.above]
  | cons c m ih =>
    obtain ⟨a, b⟩ := c
    simp only [Memory.wf, Bool.and_eq_true] at h
    by_cases h1 : i < a
    · have habove : Memory.above i m = true := by
        have := h.1
        simp only [Memory.above, List.all_eq_true, decide_eq_true_eq] at this ⊢
        exact fun c hc => Nat.lt_trans h1 (this c hc)
      have hhead : Memory.above i ((a, b) :: m) = true := by
        simpa [Memory.above, h1] using habove
      simp [Memory.write, h1, Memory.wf, hhead, h.1, h.2]
    · by_cases h2 : i = a
      · simp [Memory.write, h2, Memory.wf, h.1, h.2]
      · have h3 : a < i := by omega
        simp [Memory.write, h1, h2, Memory.wf, ih h.2, Memory.above_write h.1 h3]

/-- A write to one slot: its content is the byte written. -/
@[simp] theorem State.slotByte_setSlot_same (s : State) (i : Nat) (b : Byte) :
    (s.setSlot i b).slotByte i = b := by
  simp [State.slotByte, State.setSlot]

/-- A write to one slot leaves the content of every other slot. -/
theorem State.slotByte_setSlot_other (s : State) {i j : Nat} (b : Byte) (h : j ≠ i) :
    (s.setSlot i b).slotByte j = s.slotByte j := by
  simp [State.slotByte, State.setSlot, Memory.read_write_other _ _ h]

/-- `MemRead` inside the slot array. -/
theorem State.memRead_of_lt {s : State} {i : Nat} (h : i < s.cfg.N) : s.memRead i = some (s.slotByte i) := by
  simp [State.memRead, h]

/-- `MemWrite` inside the slot array. -/
theorem State.memWrite_of_lt {s : State} {i : Nat} (b : Byte) (h : i < s.cfg.N) :
    s.memWrite i b = some (s.setSlot i b) := by
  simp [State.memWrite, h]

/-- The slot array of the state after reset is in canonical form. -/
theorem State.reset_buf_wf : State.reset.buf.wf = true := by decide

end Sys2Proof.Machine
end

