-- ==== Sys2Proof/Laws/PerInstr.lean ====
section
/-! SUPPORT. The per-operation family `TableRow`: the word of every operation fits its row of the opcode table,
and its fields are its operands (30_encoding.md R70, R71). -/

namespace Sys2Proof.Laws.TableRow

/-- The fixed bits of the operation's row: (match, mask) of 30_encoding.md R71. -/
def row : Instr → OpWord × OpWord
  | .rst => (0x1000, 0xFFFF)
  | .enq _ => (0x2000, 0xFF00)
  | .pchg _ _ => (0x3000, 0xF000)
  | .tick => (0x4000, 0xFFFF)
  | .txc => (0x5000, 0xFFFF)

/-- The `GRP` and `DATA` fields the operation's word carries (30_encoding.md R70). -/
def fields : Instr → BitVec 4 × Byte
  | .rst => (0, 0)
  | .enq b => (0, b)
  | .pchg g v => (g, v)
  | .tick => (0, 0)
  | .txc => (0, 0)

/-- The operation's word has its row's fixed bits and carries its operands. -/
def Statement (i : Instr) : Prop :=
  encode i &&& (row i).2 = (row i).1 ∧ grpField (encode i) = (fields i).1 ∧ dataField (encode i) = (fields i).2

theorem rst : Statement .rst := by unfold Statement; decide

theorem tick : Statement .tick := by unfold Statement; decide

theorem txc : Statement .txc := by unfold Statement; decide

theorem enq (b : Byte) : Statement (.enq b) := by
  refine ⟨?_, grpField_opWord _ _ _, dataField_opWord _ _ _⟩
  revert b
  decide

/-- A word of PCHG's row is one whose `OPC` field is 3. -/
theorem and_opcMask (w : OpWord) (h : opcField w = 3) : w &&& 0xF000 = 0x3000 := by
  apply BitVec.eq_of_getLsbD_eq
  intro i hi
  have hb : ∀ k, k < 4 → w.getLsbD (12 + k) = (3 : BitVec 4).getLsbD k := by
    intro k hk
    simpa [opcField, hk] using congrArg (fun x => BitVec.getLsbD x k) h
  have h0 := hb 0 (by omega)
  have h1 := hb 1 (by omega)
  have h2 := hb 2 (by omega)
  have h3 := hb 3 (by omega)
  interval_cases i <;> simp_all

theorem pchg (g : BitVec 4) (v : Byte) : Statement (.pchg g v) :=
  ⟨and_opcMask _ (opcField_opWord _ _ _), grpField_opWord _ _ _, dataField_opWord _ _ _⟩

end Sys2Proof.Laws.TableRow
end

