-- ==== Sys2Proof/Laws/State.lean ====
section
/-! SUPPORT. What each named update of the state does to each field: one lemma per field per update, so that no
proof unfolds a record update. The fields of a producer's sequencer and of a monitor are in Laws/Producers.lean. -/

namespace Sys2Proof.Machine

variable (s : State)

/-! ## `State.setSlot` -/

@[simp] theorem State.setSlot_cfg (i : Nat) (b : Byte) : (s.setSlot i b).cfg = s.cfg := rfl
@[simp] theorem State.setSlot_buf (i : Nat) (b : Byte) : (s.setSlot i b).buf = s.buf.write i b := rfl
@[simp] theorem State.setSlot_head (i : Nat) (b : Byte) : (s.setSlot i b).head = s.head := rfl
@[simp] theorem State.setSlot_tail (i : Nat) (b : Byte) : (s.setSlot i b).tail = s.tail := rfl
@[simp] theorem State.setSlot_sending (i : Nat) (b : Byte) : (s.setSlot i b).sending = s.sending := rfl
@[simp] theorem State.setSlot_main (i : Nat) (b : Byte) : (s.setSlot i b).main = s.main := rfl
@[simp] theorem State.setSlot_mon (i : Nat) (b : Byte) : (s.setSlot i b).mon = s.mon := rfl
@[simp] theorem State.setSlot_owner (i : Nat) (b : Byte) : (s.setSlot i b).owner = s.owner := rfl
@[simp] theorem State.setSlot_hb (i : Nat) (b : Byte) : (s.setSlot i b).hb = s.hb := rfl
@[simp] theorem State.setSlot_faults (i : Nat) (b : Byte) : (s.setSlot i b).faults = s.faults := rfl
@[simp] theorem State.setSlot_wire (i : Nat) (b : Byte) : (s.setSlot i b).wire = s.wire := rfl
@[simp] theorem State.setSlot_refusals (i : Nat) (b : Byte) : (s.setSlot i b).refusals = s.refusals := rfl
@[simp] theorem State.setSlot_resetDone (i : Nat) (b : Byte) : (s.setSlot i b).resetDone = s.resetDone := rfl
@[simp] theorem State.setSlot_inbox (i : Nat) (b : Byte) : (s.setSlot i b).inbox = s.inbox := rfl
@[simp] theorem State.setSlot_seed (i : Nat) (b : Byte) : (s.setSlot i b).seed = s.seed := rfl
@[simp] theorem State.setSlot_plan (i : Nat) (b : Byte) : (s.setSlot i b).plan = s.plan := rfl
@[simp] theorem State.setSlot_policy (i : Nat) (b : Byte) : (s.setSlot i b).policy = s.policy := rfl
@[simp] theorem State.setSlot_draws (i : Nat) (b : Byte) : (s.setSlot i b).draws = s.draws := rfl
@[simp] theorem State.setSlot_slotDraw (i : Nat) (b : Byte) : (s.setSlot i b).slotDraw = s.slotDraw := rfl

/-! ## `State.updMon` -/

@[simp] theorem State.updMon_cfg (g : Nat) (f : Monitor → Monitor) : (s.updMon g f).cfg = s.cfg := rfl
@[simp] theorem State.updMon_buf (g : Nat) (f : Monitor → Monitor) : (s.updMon g f).buf = s.buf := rfl
@[simp] theorem State.updMon_head (g : Nat) (f : Monitor → Monitor) : (s.updMon g f).head = s.head := rfl
@[simp] theorem State.updMon_tail (g : Nat) (f : Monitor → Monitor) : (s.updMon g f).tail = s.tail := rfl
@[simp] theorem State.updMon_sending (g : Nat) (f : Monitor → Monitor) : (s.updMon g f).sending = s.sending := rfl
@[simp] theorem State.updMon_main (g : Nat) (f : Monitor → Monitor) : (s.updMon g f).main = s.main := rfl
@[simp] theorem State.updMon_mon (g : Nat) (f : Monitor → Monitor) : (s.updMon g f).mon = s.mon.modify g f := rfl
@[simp] theorem State.updMon_owner (g : Nat) (f : Monitor → Monitor) : (s.updMon g f).owner = s.owner := rfl
@[simp] theorem State.updMon_hb (g : Nat) (f : Monitor → Monitor) : (s.updMon g f).hb = s.hb := rfl
@[simp] theorem State.updMon_faults (g : Nat) (f : Monitor → Monitor) : (s.updMon g f).faults = s.faults := rfl
@[simp] theorem State.updMon_wire (g : Nat) (f : Monitor → Monitor) : (s.updMon g f).wire = s.wire := rfl
@[simp] theorem State.updMon_refusals (g : Nat) (f : Monitor → Monitor) : (s.updMon g f).refusals = s.refusals := rfl
@[simp] theorem State.updMon_resetDone (g : Nat) (f : Monitor → Monitor) : (s.updMon g f).resetDone = s.resetDone := rfl
@[simp] theorem State.updMon_inbox (g : Nat) (f : Monitor → Monitor) : (s.updMon g f).inbox = s.inbox := rfl
@[simp] theorem State.updMon_seed (g : Nat) (f : Monitor → Monitor) : (s.updMon g f).seed = s.seed := rfl
@[simp] theorem State.updMon_plan (g : Nat) (f : Monitor → Monitor) : (s.updMon g f).plan = s.plan := rfl
@[simp] theorem State.updMon_policy (g : Nat) (f : Monitor → Monitor) : (s.updMon g f).policy = s.policy := rfl
@[simp] theorem State.updMon_draws (g : Nat) (f : Monitor → Monitor) : (s.updMon g f).draws = s.draws := rfl
@[simp] theorem State.updMon_slotDraw (g : Nat) (f : Monitor → Monitor) : (s.updMon g f).slotDraw = s.slotDraw := rfl

/-! ## `State.setOwner` -/

@[simp] theorem State.setOwner_cfg (o : Option Producer) : (s.setOwner o).cfg = s.cfg := rfl
@[simp] theorem State.setOwner_buf (o : Option Producer) : (s.setOwner o).buf = s.buf := rfl
@[simp] theorem State.setOwner_head (o : Option Producer) : (s.setOwner o).head = s.head := rfl
@[simp] theorem State.setOwner_tail (o : Option Producer) : (s.setOwner o).tail = s.tail := rfl
@[simp] theorem State.setOwner_sending (o : Option Producer) : (s.setOwner o).sending = s.sending := rfl
@[simp] theorem State.setOwner_main (o : Option Producer) : (s.setOwner o).main = s.main := rfl
@[simp] theorem State.setOwner_mon (o : Option Producer) : (s.setOwner o).mon = s.mon := rfl
@[simp] theorem State.setOwner_owner (o : Option Producer) : (s.setOwner o).owner = o := rfl
@[simp] theorem State.setOwner_hb (o : Option Producer) : (s.setOwner o).hb = s.hb := rfl
@[simp] theorem State.setOwner_faults (o : Option Producer) : (s.setOwner o).faults = s.faults := rfl
@[simp] theorem State.setOwner_wire (o : Option Producer) : (s.setOwner o).wire = s.wire := rfl
@[simp] theorem State.setOwner_refusals (o : Option Producer) : (s.setOwner o).refusals = s.refusals := rfl
@[simp] theorem State.setOwner_resetDone (o : Option Producer) : (s.setOwner o).resetDone = s.resetDone := rfl
@[simp] theorem State.setOwner_inbox (o : Option Producer) : (s.setOwner o).inbox = s.inbox := rfl
@[simp] theorem State.setOwner_seed (o : Option Producer) : (s.setOwner o).seed = s.seed := rfl
@[simp] theorem State.setOwner_plan (o : Option Producer) : (s.setOwner o).plan = s.plan := rfl
@[simp] theorem State.setOwner_policy (o : Option Producer) : (s.setOwner o).policy = s.policy := rfl
@[simp] theorem State.setOwner_draws (o : Option Producer) : (s.setOwner o).draws = s.draws := rfl
@[simp] theorem State.setOwner_slotDraw (o : Option Producer) : (s.setOwner o).slotDraw = s.slotDraw := rfl

/-! ## `addOnce` -/

/-- What a record holds once `x` is put in it. -/
@[simp] theorem mem_addOnce {α : Type} [DecidableEq α] {x y : α} {l : List α} : y ∈ addOnce x l ↔ y ∈ l ∨ y = x := by
  unfold addOnce
  split
  · next h => exact ⟨.inl, fun o => o.elim id fun e => e ▸ h⟩
  · simp

/-! ## `State.recordFault` -/

@[simp] theorem State.recordFault_cfg (k : FaultKind) (w : OpWord) : (s.recordFault k w).cfg = s.cfg := rfl
@[simp] theorem State.recordFault_buf (k : FaultKind) (w : OpWord) : (s.recordFault k w).buf = s.buf := rfl
@[simp] theorem State.recordFault_head (k : FaultKind) (w : OpWord) : (s.recordFault k w).head = s.head := rfl
@[simp] theorem State.recordFault_tail (k : FaultKind) (w : OpWord) : (s.recordFault k w).tail = s.tail := rfl
@[simp] theorem State.recordFault_sending (k : FaultKind) (w : OpWord) : (s.recordFault k w).sending = s.sending := rfl
@[simp] theorem State.recordFault_main (k : FaultKind) (w : OpWord) : (s.recordFault k w).main = s.main := rfl
@[simp] theorem State.recordFault_mon (k : FaultKind) (w : OpWord) : (s.recordFault k w).mon = s.mon := rfl
@[simp] theorem State.recordFault_owner (k : FaultKind) (w : OpWord) : (s.recordFault k w).owner = s.owner := rfl
@[simp] theorem State.recordFault_hb (k : FaultKind) (w : OpWord) : (s.recordFault k w).hb = s.hb := rfl
@[simp] theorem State.recordFault_faults (k : FaultKind) (w : OpWord) : (s.recordFault k w).faults = addOnce ⟨k, w⟩ s.faults := rfl
@[simp] theorem State.recordFault_wire (k : FaultKind) (w : OpWord) : (s.recordFault k w).wire = s.wire := rfl
@[simp] theorem State.recordFault_refusals (k : FaultKind) (w : OpWord) : (s.recordFault k w).refusals = s.refusals := rfl
@[simp] theorem State.recordFault_resetDone (k : FaultKind) (w : OpWord) : (s.recordFault k w).resetDone = s.resetDone := rfl
@[simp] theorem State.recordFault_inbox (k : FaultKind) (w : OpWord) : (s.recordFault k w).inbox = s.inbox := rfl
@[simp] theorem State.recordFault_seed (k : FaultKind) (w : OpWord) : (s.recordFault k w).seed = s.seed := rfl
@[simp] theorem State.recordFault_plan (k : FaultKind) (w : OpWord) : (s.recordFault k w).plan = s.plan := rfl
@[simp] theorem State.recordFault_policy (k : FaultKind) (w : OpWord) : (s.recordFault k w).policy = s.policy := rfl
@[simp] theorem State.recordFault_draws (k : FaultKind) (w : OpWord) : (s.recordFault k w).draws = s.draws := rfl
@[simp] theorem State.recordFault_slotDraw (k : FaultKind) (w : OpWord) : (s.recordFault k w).slotDraw = s.slotDraw := rfl

/-! ## `State.mark` -/

@[simp] theorem State.mark_cfg (r : RefusalKind) : (s.mark r).cfg = s.cfg := rfl
@[simp] theorem State.mark_buf (r : RefusalKind) : (s.mark r).buf = s.buf := rfl
@[simp] theorem State.mark_head (r : RefusalKind) : (s.mark r).head = s.head := rfl
@[simp] theorem State.mark_tail (r : RefusalKind) : (s.mark r).tail = s.tail := rfl
@[simp] theorem State.mark_sending (r : RefusalKind) : (s.mark r).sending = s.sending := rfl
@[simp] theorem State.mark_main (r : RefusalKind) : (s.mark r).main = s.main := rfl
@[simp] theorem State.mark_mon (r : RefusalKind) : (s.mark r).mon = s.mon := rfl
@[simp] theorem State.mark_owner (r : RefusalKind) : (s.mark r).owner = s.owner := rfl
@[simp] theorem State.mark_hb (r : RefusalKind) : (s.mark r).hb = s.hb := rfl
@[simp] theorem State.mark_faults (r : RefusalKind) : (s.mark r).faults = s.faults := rfl
@[simp] theorem State.mark_wire (r : RefusalKind) : (s.mark r).wire = s.wire := rfl
@[simp] theorem State.mark_refusals (r : RefusalKind) : (s.mark r).refusals = addOnce r s.refusals := rfl
@[simp] theorem State.mark_resetDone (r : RefusalKind) : (s.mark r).resetDone = s.resetDone := rfl
@[simp] theorem State.mark_inbox (r : RefusalKind) : (s.mark r).inbox = s.inbox := rfl
@[simp] theorem State.mark_seed (r : RefusalKind) : (s.mark r).seed = s.seed := rfl
@[simp] theorem State.mark_plan (r : RefusalKind) : (s.mark r).plan = s.plan := rfl
@[simp] theorem State.mark_policy (r : RefusalKind) : (s.mark r).policy = s.policy := rfl
@[simp] theorem State.mark_draws (r : RefusalKind) : (s.mark r).draws = s.draws := rfl
@[simp] theorem State.mark_slotDraw (r : RefusalKind) : (s.mark r).slotDraw = s.slotDraw := rfl

/-! ## `State.transmit` -/

@[simp] theorem State.transmit_cfg (b : Byte) : (s.transmit b).cfg = s.cfg := rfl
@[simp] theorem State.transmit_buf (b : Byte) : (s.transmit b).buf = s.buf := rfl
@[simp] theorem State.transmit_head (b : Byte) : (s.transmit b).head = s.head := rfl
@[simp] theorem State.transmit_tail (b : Byte) : (s.transmit b).tail = s.tail := rfl
@[simp] theorem State.transmit_sending (b : Byte) : (s.transmit b).sending = s.sending := rfl
@[simp] theorem State.transmit_main (b : Byte) : (s.transmit b).main = s.main := rfl
@[simp] theorem State.transmit_mon (b : Byte) : (s.transmit b).mon = s.mon := rfl
@[simp] theorem State.transmit_owner (b : Byte) : (s.transmit b).owner = s.owner := rfl
@[simp] theorem State.transmit_hb (b : Byte) : (s.transmit b).hb = s.hb := rfl
@[simp] theorem State.transmit_faults (b : Byte) : (s.transmit b).faults = s.faults := rfl
@[simp] theorem State.transmit_wire (b : Byte) : (s.transmit b).wire = s.wire ++ [b] := rfl
@[simp] theorem State.transmit_refusals (b : Byte) : (s.transmit b).refusals = s.refusals := rfl
@[simp] theorem State.transmit_resetDone (b : Byte) : (s.transmit b).resetDone = s.resetDone := rfl
@[simp] theorem State.transmit_inbox (b : Byte) : (s.transmit b).inbox = s.inbox := rfl
@[simp] theorem State.transmit_seed (b : Byte) : (s.transmit b).seed = s.seed := rfl
@[simp] theorem State.transmit_plan (b : Byte) : (s.transmit b).plan = s.plan := rfl
@[simp] theorem State.transmit_policy (b : Byte) : (s.transmit b).policy = s.policy := rfl
@[simp] theorem State.transmit_draws (b : Byte) : (s.transmit b).draws = s.draws := rfl
@[simp] theorem State.transmit_slotDraw (b : Byte) : (s.transmit b).slotDraw = s.slotDraw := rfl

/-! ## `State.takeNext` -/

@[simp] theorem State.takeNext_cfg (b : Byte) : (s.takeNext b).cfg = s.cfg := rfl
@[simp] theorem State.takeNext_buf (b : Byte) : (s.takeNext b).buf = s.buf := rfl
@[simp] theorem State.takeNext_head (b : Byte) : (s.takeNext b).head = s.head := rfl
@[simp] theorem State.takeNext_tail (b : Byte) : (s.takeNext b).tail = s.nextIndex s.tail := rfl
@[simp] theorem State.takeNext_sending (b : Byte) : (s.takeNext b).sending = true := rfl
@[simp] theorem State.takeNext_main (b : Byte) : (s.takeNext b).main = s.main := rfl
@[simp] theorem State.takeNext_mon (b : Byte) : (s.takeNext b).mon = s.mon := rfl
@[simp] theorem State.takeNext_owner (b : Byte) : (s.takeNext b).owner = s.owner := rfl
@[simp] theorem State.takeNext_hb (b : Byte) : (s.takeNext b).hb = s.hb := rfl
@[simp] theorem State.takeNext_faults (b : Byte) : (s.takeNext b).faults = s.faults := rfl
@[simp] theorem State.takeNext_wire (b : Byte) : (s.takeNext b).wire = s.wire ++ [b] := rfl
@[simp] theorem State.takeNext_refusals (b : Byte) : (s.takeNext b).refusals = s.refusals := rfl
@[simp] theorem State.takeNext_resetDone (b : Byte) : (s.takeNext b).resetDone = s.resetDone := rfl
@[simp] theorem State.takeNext_inbox (b : Byte) : (s.takeNext b).inbox = s.inbox := rfl
@[simp] theorem State.takeNext_seed (b : Byte) : (s.takeNext b).seed = s.seed := rfl
@[simp] theorem State.takeNext_plan (b : Byte) : (s.takeNext b).plan = s.plan := rfl
@[simp] theorem State.takeNext_policy (b : Byte) : (s.takeNext b).policy = s.policy := rfl
@[simp] theorem State.takeNext_draws (b : Byte) : (s.takeNext b).draws = s.draws := rfl
@[simp] theorem State.takeNext_slotDraw (b : Byte) : (s.takeNext b).slotDraw = s.slotDraw := rfl

/-! ## `State.consume` -/

@[simp] theorem State.consume_cfg (k : Nat) : (s.consume k).cfg = s.cfg := rfl
@[simp] theorem State.consume_buf (k : Nat) : (s.consume k).buf = s.buf := rfl
@[simp] theorem State.consume_head (k : Nat) : (s.consume k).head = s.head := rfl
@[simp] theorem State.consume_tail (k : Nat) : (s.consume k).tail = s.tail := rfl
@[simp] theorem State.consume_sending (k : Nat) : (s.consume k).sending = s.sending := rfl
@[simp] theorem State.consume_main (k : Nat) : (s.consume k).main = s.main := rfl
@[simp] theorem State.consume_mon (k : Nat) : (s.consume k).mon = s.mon := rfl
@[simp] theorem State.consume_owner (k : Nat) : (s.consume k).owner = s.owner := rfl
@[simp] theorem State.consume_hb (k : Nat) : (s.consume k).hb = s.hb := rfl
@[simp] theorem State.consume_faults (k : Nat) : (s.consume k).faults = s.faults := rfl
@[simp] theorem State.consume_wire (k : Nat) : (s.consume k).wire = s.wire := rfl
@[simp] theorem State.consume_refusals (k : Nat) : (s.consume k).refusals = s.refusals := rfl
@[simp] theorem State.consume_resetDone (k : Nat) : (s.consume k).resetDone = s.resetDone := rfl
@[simp] theorem State.consume_inbox (k : Nat) : (s.consume k).inbox = s.inbox.eraseIdx k := rfl
@[simp] theorem State.consume_seed (k : Nat) : (s.consume k).seed = s.seed := rfl
@[simp] theorem State.consume_plan (k : Nat) : (s.consume k).plan = s.plan := rfl
@[simp] theorem State.consume_policy (k : Nat) : (s.consume k).policy = s.policy := rfl
@[simp] theorem State.consume_draws (k : Nat) : (s.consume k).draws = s.draws := rfl
@[simp] theorem State.consume_slotDraw (k : Nat) : (s.consume k).slotDraw = s.slotDraw := rfl

/-! ## `State.withSeed` -/

@[simp] theorem State.withSeed_cfg (vs : List Byte) : (s.withSeed vs).cfg = s.cfg := rfl
@[simp] theorem State.withSeed_buf (vs : List Byte) : (s.withSeed vs).buf = s.buf := rfl
@[simp] theorem State.withSeed_head (vs : List Byte) : (s.withSeed vs).head = s.head := rfl
@[simp] theorem State.withSeed_tail (vs : List Byte) : (s.withSeed vs).tail = s.tail := rfl
@[simp] theorem State.withSeed_sending (vs : List Byte) : (s.withSeed vs).sending = s.sending := rfl
@[simp] theorem State.withSeed_main (vs : List Byte) : (s.withSeed vs).main = s.main := rfl
@[simp] theorem State.withSeed_mon (vs : List Byte) : (s.withSeed vs).mon = s.mon := rfl
@[simp] theorem State.withSeed_owner (vs : List Byte) : (s.withSeed vs).owner = s.owner := rfl
@[simp] theorem State.withSeed_hb (vs : List Byte) : (s.withSeed vs).hb = s.hb := rfl
@[simp] theorem State.withSeed_faults (vs : List Byte) : (s.withSeed vs).faults = s.faults := rfl
@[simp] theorem State.withSeed_wire (vs : List Byte) : (s.withSeed vs).wire = s.wire := rfl
@[simp] theorem State.withSeed_refusals (vs : List Byte) : (s.withSeed vs).refusals = s.refusals := rfl
@[simp] theorem State.withSeed_resetDone (vs : List Byte) : (s.withSeed vs).resetDone = s.resetDone := rfl
@[simp] theorem State.withSeed_inbox (vs : List Byte) : (s.withSeed vs).inbox = s.inbox := rfl
@[simp] theorem State.withSeed_seed (vs : List Byte) : (s.withSeed vs).seed = vs := rfl
@[simp] theorem State.withSeed_plan (vs : List Byte) : (s.withSeed vs).plan = s.plan := rfl
@[simp] theorem State.withSeed_policy (vs : List Byte) : (s.withSeed vs).policy = s.policy := rfl
@[simp] theorem State.withSeed_draws (vs : List Byte) : (s.withSeed vs).draws = s.draws := rfl
@[simp] theorem State.withSeed_slotDraw (vs : List Byte) : (s.withSeed vs).slotDraw = s.slotDraw := rfl

/-! ## `State.present` -/

@[simp] theorem State.present_cfg (w : OpWord) : (s.present w).cfg = s.cfg := rfl
@[simp] theorem State.present_buf (w : OpWord) : (s.present w).buf = s.buf := rfl
@[simp] theorem State.present_head (w : OpWord) : (s.present w).head = s.head := rfl
@[simp] theorem State.present_tail (w : OpWord) : (s.present w).tail = s.tail := rfl
@[simp] theorem State.present_sending (w : OpWord) : (s.present w).sending = s.sending := rfl
@[simp] theorem State.present_main (w : OpWord) : (s.present w).main = s.main := rfl
@[simp] theorem State.present_mon (w : OpWord) : (s.present w).mon = s.mon := rfl
@[simp] theorem State.present_owner (w : OpWord) : (s.present w).owner = s.owner := rfl
@[simp] theorem State.present_hb (w : OpWord) : (s.present w).hb = s.hb := rfl
@[simp] theorem State.present_faults (w : OpWord) : (s.present w).faults = s.faults := rfl
@[simp] theorem State.present_wire (w : OpWord) : (s.present w).wire = s.wire := rfl
@[simp] theorem State.present_refusals (w : OpWord) : (s.present w).refusals = s.refusals := rfl
@[simp] theorem State.present_resetDone (w : OpWord) : (s.present w).resetDone = s.resetDone := rfl
@[simp] theorem State.present_inbox (w : OpWord) : (s.present w).inbox = .word w :: s.inbox := rfl
@[simp] theorem State.present_seed (w : OpWord) : (s.present w).seed = s.seed := rfl
@[simp] theorem State.present_plan (w : OpWord) : (s.present w).plan = .accept 0 :: s.plan := rfl
@[simp] theorem State.present_policy (w : OpWord) : (s.present w).policy = s.policy := rfl
@[simp] theorem State.present_draws (w : OpWord) : (s.present w).draws = s.draws := rfl
@[simp] theorem State.present_slotDraw (w : OpWord) : (s.present w).slotDraw = s.slotDraw := rfl

/-! ## `State.setSeq` -/

@[simp] theorem State.setSeq_cfg (p : Producer) (q : Sequencer) : (s.setSeq p q).cfg = s.cfg := by cases p <;> rfl
@[simp] theorem State.setSeq_buf (p : Producer) (q : Sequencer) : (s.setSeq p q).buf = s.buf := by cases p <;> rfl
@[simp] theorem State.setSeq_head (p : Producer) (q : Sequencer) : (s.setSeq p q).head = s.head := by cases p <;> rfl
@[simp] theorem State.setSeq_tail (p : Producer) (q : Sequencer) : (s.setSeq p q).tail = s.tail := by cases p <;> rfl
@[simp] theorem State.setSeq_sending (p : Producer) (q : Sequencer) : (s.setSeq p q).sending = s.sending := by cases p <;> rfl
@[simp] theorem State.setSeq_owner (p : Producer) (q : Sequencer) : (s.setSeq p q).owner = s.owner := by cases p <;> rfl
@[simp] theorem State.setSeq_hb (p : Producer) (q : Sequencer) : (s.setSeq p q).hb = s.hb := by cases p <;> rfl
@[simp] theorem State.setSeq_faults (p : Producer) (q : Sequencer) : (s.setSeq p q).faults = s.faults := by cases p <;> rfl
@[simp] theorem State.setSeq_wire (p : Producer) (q : Sequencer) : (s.setSeq p q).wire = s.wire := by cases p <;> rfl
@[simp] theorem State.setSeq_refusals (p : Producer) (q : Sequencer) : (s.setSeq p q).refusals = s.refusals := by cases p <;> rfl
@[simp] theorem State.setSeq_resetDone (p : Producer) (q : Sequencer) : (s.setSeq p q).resetDone = s.resetDone := by cases p <;> rfl
@[simp] theorem State.setSeq_inbox (p : Producer) (q : Sequencer) : (s.setSeq p q).inbox = s.inbox := by cases p <;> rfl
@[simp] theorem State.setSeq_seed (p : Producer) (q : Sequencer) : (s.setSeq p q).seed = s.seed := by cases p <;> rfl
@[simp] theorem State.setSeq_plan (p : Producer) (q : Sequencer) : (s.setSeq p q).plan = s.plan := by cases p <;> rfl
@[simp] theorem State.setSeq_policy (p : Producer) (q : Sequencer) : (s.setSeq p q).policy = s.policy := by cases p <;> rfl
@[simp] theorem State.setSeq_draws (p : Producer) (q : Sequencer) : (s.setSeq p q).draws = s.draws := by cases p <;> rfl
@[simp] theorem State.setSeq_slotDraw (p : Producer) (q : Sequencer) : (s.setSeq p q).slotDraw = s.slotDraw := by cases p <;> rfl

/-! ## `State.give` -/

@[simp] theorem State.give_cfg (p : Producer) (ts : List (List Byte)) : (s.give p ts).cfg = s.cfg := by cases p <;> rfl
@[simp] theorem State.give_buf (p : Producer) (ts : List (List Byte)) : (s.give p ts).buf = s.buf := by cases p <;> rfl
@[simp] theorem State.give_head (p : Producer) (ts : List (List Byte)) : (s.give p ts).head = s.head := by cases p <;> rfl
@[simp] theorem State.give_tail (p : Producer) (ts : List (List Byte)) : (s.give p ts).tail = s.tail := by cases p <;> rfl
@[simp] theorem State.give_sending (p : Producer) (ts : List (List Byte)) : (s.give p ts).sending = s.sending := by cases p <;> rfl
@[simp] theorem State.give_owner (p : Producer) (ts : List (List Byte)) : (s.give p ts).owner = s.owner := by cases p <;> rfl
@[simp] theorem State.give_hb (p : Producer) (ts : List (List Byte)) : (s.give p ts).hb = s.hb := by cases p <;> rfl
@[simp] theorem State.give_faults (p : Producer) (ts : List (List Byte)) : (s.give p ts).faults = s.faults := by cases p <;> rfl
@[simp] theorem State.give_wire (p : Producer) (ts : List (List Byte)) : (s.give p ts).wire = s.wire := by cases p <;> rfl
@[simp] theorem State.give_refusals (p : Producer) (ts : List (List Byte)) : (s.give p ts).refusals = s.refusals := by cases p <;> rfl
@[simp] theorem State.give_resetDone (p : Producer) (ts : List (List Byte)) : (s.give p ts).resetDone = s.resetDone := by cases p <;> rfl
@[simp] theorem State.give_inbox (p : Producer) (ts : List (List Byte)) : (s.give p ts).inbox = s.inbox := by cases p <;> rfl
@[simp] theorem State.give_seed (p : Producer) (ts : List (List Byte)) : (s.give p ts).seed = s.seed := by cases p <;> rfl
@[simp] theorem State.give_plan (p : Producer) (ts : List (List Byte)) : (s.give p ts).plan = s.plan := by cases p <;> rfl
@[simp] theorem State.give_policy (p : Producer) (ts : List (List Byte)) : (s.give p ts).policy = s.policy := by cases p <;> rfl
@[simp] theorem State.give_draws (p : Producer) (ts : List (List Byte)) : (s.give p ts).draws = s.draws := by cases p <;> rfl
@[simp] theorem State.give_slotDraw (p : Producer) (ts : List (List Byte)) : (s.give p ts).slotDraw = s.slotDraw := by cases p <;> rfl

/-! ## `State.complete` -/

@[simp] theorem State.complete_cfg (g : Nat) : (s.complete g).cfg = s.cfg := rfl
@[simp] theorem State.complete_buf (g : Nat) : (s.complete g).buf = s.buf := rfl
@[simp] theorem State.complete_head (g : Nat) : (s.complete g).head = s.head := rfl
@[simp] theorem State.complete_tail (g : Nat) : (s.complete g).tail = s.tail := rfl
@[simp] theorem State.complete_sending (g : Nat) : (s.complete g).sending = s.sending := rfl
@[simp] theorem State.complete_main (g : Nat) : (s.complete g).main = s.main := rfl
@[simp] theorem State.complete_owner (g : Nat) : (s.complete g).owner = s.owner := rfl
@[simp] theorem State.complete_hb (g : Nat) : (s.complete g).hb = s.hb := rfl
@[simp] theorem State.complete_faults (g : Nat) : (s.complete g).faults = s.faults := rfl
@[simp] theorem State.complete_wire (g : Nat) : (s.complete g).wire = s.wire := rfl
@[simp] theorem State.complete_refusals (g : Nat) : (s.complete g).refusals = s.refusals := rfl
@[simp] theorem State.complete_resetDone (g : Nat) : (s.complete g).resetDone = s.resetDone := rfl
@[simp] theorem State.complete_inbox (g : Nat) : (s.complete g).inbox = s.inbox := rfl
@[simp] theorem State.complete_seed (g : Nat) : (s.complete g).seed = s.seed := rfl
@[simp] theorem State.complete_plan (g : Nat) : (s.complete g).plan = s.plan := rfl
@[simp] theorem State.complete_policy (g : Nat) : (s.complete g).policy = s.policy := rfl
@[simp] theorem State.complete_draws (g : Nat) : (s.complete g).draws = s.draws := rfl
@[simp] theorem State.complete_slotDraw (g : Nat) : (s.complete g).slotDraw = s.slotDraw := rfl

/-! ## `State.setCur` -/

@[simp] theorem State.setCur_cfg (g : Nat) (v : Byte) : (s.setCur g v).cfg = s.cfg := rfl
@[simp] theorem State.setCur_buf (g : Nat) (v : Byte) : (s.setCur g v).buf = s.buf := rfl
@[simp] theorem State.setCur_head (g : Nat) (v : Byte) : (s.setCur g v).head = s.head := rfl
@[simp] theorem State.setCur_tail (g : Nat) (v : Byte) : (s.setCur g v).tail = s.tail := rfl
@[simp] theorem State.setCur_sending (g : Nat) (v : Byte) : (s.setCur g v).sending = s.sending := rfl
@[simp] theorem State.setCur_main (g : Nat) (v : Byte) : (s.setCur g v).main = s.main := rfl
@[simp] theorem State.setCur_owner (g : Nat) (v : Byte) : (s.setCur g v).owner = s.owner := rfl
@[simp] theorem State.setCur_hb (g : Nat) (v : Byte) : (s.setCur g v).hb = s.hb := rfl
@[simp] theorem State.setCur_faults (g : Nat) (v : Byte) : (s.setCur g v).faults = s.faults := rfl
@[simp] theorem State.setCur_wire (g : Nat) (v : Byte) : (s.setCur g v).wire = s.wire := rfl
@[simp] theorem State.setCur_refusals (g : Nat) (v : Byte) : (s.setCur g v).refusals = s.refusals := rfl
@[simp] theorem State.setCur_resetDone (g : Nat) (v : Byte) : (s.setCur g v).resetDone = s.resetDone := rfl
@[simp] theorem State.setCur_inbox (g : Nat) (v : Byte) : (s.setCur g v).inbox = s.inbox := rfl
@[simp] theorem State.setCur_seed (g : Nat) (v : Byte) : (s.setCur g v).seed = s.seed := rfl
@[simp] theorem State.setCur_plan (g : Nat) (v : Byte) : (s.setCur g v).plan = s.plan := rfl
@[simp] theorem State.setCur_policy (g : Nat) (v : Byte) : (s.setCur g v).policy = s.policy := rfl
@[simp] theorem State.setCur_draws (g : Nat) (v : Byte) : (s.setCur g v).draws = s.draws := rfl
@[simp] theorem State.setCur_slotDraw (g : Nat) (v : Byte) : (s.setCur g v).slotDraw = s.slotDraw := rfl

end Sys2Proof.Machine
end

