-- ==== Sys2Proof/Laws/Producers.lean ====
section
/-! SUPPORT. The producers' sequencers and the monitors under the named updates. -/

namespace Sys2Proof.Machine

variable (s : State)

/-- A monitor the block has, after an update of it. -/
theorem State.monitor_updMon_same {g : Nat} (f : Monitor → Monitor) (h : g < s.mon.length) :
    (s.updMon g f).monitor g = f (s.monitor g) := by
  simp [State.monitor, State.updMon, h]

/-- An update of one monitor leaves every other monitor. -/
theorem State.monitor_updMon_other {g k : Nat} (f : Monitor → Monitor) (h : k ≠ g) :
    (s.updMon g f).monitor k = s.monitor k := by
  have h' : g ≠ k := fun e => h e.symm
  simp [State.monitor, State.updMon, h']

/-- An update that leaves the sequencer of a monitor leaves every producer's sequencer. -/
theorem State.seq_updMon (g : Nat) (f : Monitor → Monitor) (hf : ∀ m, (f m).seq = m.seq) (p : Producer) :
    (s.updMon g f).seq p = s.seq p := by
  cases p with
  | main => rfl
  | monitor k =>
    by_cases h : k = g
    · subst h
      by_cases hk : k < s.mon.length
      · simp [State.seq, State.monitor_updMon_same s f hk, hf]
      · simp [State.seq, State.monitor, State.updMon, hk]
    · simp [State.seq, State.monitor_updMon_other s f h]

@[simp] theorem State.seq_complete (g : Nat) (p : Producer) : (s.complete g).seq p = s.seq p :=
  State.seq_updMon s g (fun m => { m with snap := m.cur }) (fun _ => rfl) p

@[simp] theorem State.seq_setCur (g : Nat) (v : Byte) (p : Producer) : (s.setCur g v).seq p = s.seq p :=
  State.seq_updMon s g (fun m => { m with cur := v }) (fun _ => rfl) p

/-- The number of monitors never changes by an update of one. -/
@[simp] theorem State.length_mon_updMon (g : Nat) (f : Monitor → Monitor) :
    (s.updMon g f).mon.length = s.mon.length := by
  simp [State.updMon]

@[simp] theorem State.length_mon_setSeq (p : Producer) (q : Sequencer) :
    (s.setSeq p q).mon.length = s.mon.length := by
  cases p <;> simp [State.setSeq]

@[simp] theorem State.length_mon_give (p : Producer) (ts : List (List Byte)) :
    (s.give p ts).mon.length = s.mon.length := by
  simp [State.give]

@[simp] theorem State.length_mon_complete (g : Nat) : (s.complete g).mon.length = s.mon.length := by
  simp [State.complete]

@[simp] theorem State.length_mon_setCur (g : Nat) (v : Byte) : (s.setCur g v).mon.length = s.mon.length := by
  simp [State.setCur]

/-- A producer of the block: `M`, or a monitor it has. -/
theorem State.mem_producers {p : Producer} :
    p ∈ s.producers ↔ p = .main ∨ ∃ g, g < s.cfg.G ∧ p = .monitor g := by
  cases p <;> simp [State.producers, eq_comm]

/-- The sequencer of a producer after it is replaced. -/
theorem State.seq_setSeq_same {p : Producer} (q : Sequencer) (hlen : s.mon.length = s.cfg.G)
    (hp : p ∈ s.producers) : (s.setSeq p q).seq p = q := by
  rcases (State.mem_producers s).1 hp with rfl | ⟨g, hg, rfl⟩
  · rfl
  · have : g < s.mon.length := by omega
    simp [State.setSeq, State.seq, State.monitor_updMon_same s _ this]

/-- Replacing one producer's sequencer leaves every other producer's. -/
theorem State.seq_setSeq_other {p r : Producer} (q : Sequencer) (h : r ≠ p) :
    (s.setSeq p q).seq r = s.seq r := by
  cases p with
  | main =>
    cases r with
    | main => exact absurd rfl h
    | monitor k => rfl
  | monitor g =>
    cases r with
    | main => rfl
    | monitor k =>
      have hk : k ≠ g := fun e => h (by rw [e])
      simp [State.setSeq, State.seq, State.monitor_updMon_other s _ hk]

/-- The snapshots under a replacement of a sequencer. -/
@[simp] theorem State.snap_setSeq (p : Producer) (q : Sequencer) (g : Nat) :
    (s.setSeq p q).snap g = s.snap g := by
  cases p with
  | main => rfl
  | monitor k =>
    by_cases h : g = k
    · subst h
      by_cases hg : g < s.mon.length
      · simp [State.snap, State.setSeq, State.monitor_updMon_same s _ hg]
      · simp [State.snap, State.setSeq, State.monitor, State.updMon, hg]
    · simp [State.snap, State.setSeq, State.monitor_updMon_other s _ h]

/-- The values read by invocations under a replacement of a sequencer. -/
@[simp] theorem State.cur_setSeq (p : Producer) (q : Sequencer) (g : Nat) :
    (s.setSeq p q).cur g = s.cur g := by
  cases p with
  | main => rfl
  | monitor k =>
    by_cases h : g = k
    · subst h
      by_cases hg : g < s.mon.length
      · simp [State.cur, State.setSeq, State.monitor_updMon_same s _ hg]
      · simp [State.cur, State.setSeq, State.monitor, State.updMon, hg]
    · simp [State.cur, State.setSeq, State.monitor_updMon_other s _ h]

/-- COMPLETE: the snapshot of the group becomes the value its invocation read. -/
theorem State.snap_complete_same {g : Nat} (h : g < s.mon.length) : (s.complete g).snap g = s.cur g := by
  simp [State.snap, State.cur, State.complete, State.monitor_updMon_same s _ h]

theorem State.snap_complete_other {g k : Nat} (h : k ≠ g) : (s.complete g).snap k = s.snap k := by
  simp [State.snap, State.complete, State.monitor_updMon_other s _ h]

theorem State.cur_setCur_same {g : Nat} (v : Byte) (h : g < s.mon.length) : (s.setCur g v).cur g = v := by
  simp [State.cur, State.setCur, State.monitor_updMon_same s _ h]

theorem State.cur_setCur_other {g k : Nat} (v : Byte) (h : k ≠ g) : (s.setCur g v).cur k = s.cur k := by
  simp [State.cur, State.setCur, State.monitor_updMon_other s _ h]

end Sys2Proof.Machine
end

