-- ==== Sys2Proof/Laws/Steps.lean ====
section
/-! SUPPORT. What each shared operation and each step can do, said once: "if it answers a next state, then one of
these cases holds". -/

namespace Sys2Proof.Machine

variable {s t : State}

/-- A sequence goes on only if its first part does. -/
theorem andThen_next {o : Result} {f : State → Result} :
    andThen o f = .next t ↔ ∃ u, o = .next u ∧ f u = .next t := by
  cases o <;> simp [andThen]

/-- The hand-off takes the byte at `tail`. -/
theorem handOff_next : handOff s = .next t ↔ s.tail < s.cfg.N ∧ t = s.takeNext (s.slotByte s.tail) := by
  by_cases h : s.tail < s.cfg.N <;> simp [handOff, State.memRead, h, eq_comm]

/-- KICK starts a transmission when none is in flight and a byte is buffered; else it does nothing. -/
theorem kick_next (h : kick s = .next t) :
    (s.sending = false ∧ s.empty = false ∧ s.tail < s.cfg.N ∧ t = s.takeNext (s.slotByte s.tail)) ∨
      ((s.sending = true ∨ s.empty = true) ∧ t = s) := by
  unfold kick at h
  split at h
  · next hc => exact .inl ⟨hc.1, hc.2, (handOff_next.1 h).1, (handOff_next.1 h).2⟩
  · next hc =>
    refine .inr ⟨?_, by simpa [eq_comm] using h⟩
    cases hs : s.sending <;> cases he : s.empty <;> simp_all

/-- P-ENQ is held, or writes the byte at `head` and publishes it. -/
theorem pEnq_next {p : Producer} {b : Byte} {bs : List Byte} {ts : List (List Byte)}
    (h : pEnq p b bs ts s = .next t) :
    ((∃ r, s.enqHold p = some r) ∧ t = s) ∨
      (s.enqHold p = none ∧ s.head < s.cfg.N ∧ t = (s.setSlot s.head b).publish p bs ts) := by
  unfold pEnq at h
  split at h
  · next r hr => exact .inl ⟨⟨r, hr⟩, by simpa [hold, eq_comm] using h⟩
  · next hn =>
    by_cases hh : s.head < s.cfg.N
    · rw [State.memWrite_of_lt b hh] at h
      exact .inr ⟨hn, hh, by simpa [eq_comm] using h⟩
    · simp [State.memWrite, hh] at h

/-- P-ENQ is not held when the lock is free for `p` and the ring is not full. -/
theorem State.enqHold_none {p : Producer} :
    s.enqHold p = none ↔ (s.owner = none ∨ s.owner = some p) ∧ s.full = false := by
  unfold State.enqHold State.lockedFor
  cases s.owner with
  | none => by_cases hf : s.full = true <;> simp [hf]
  | some q =>
    by_cases hq : q = p
    · by_cases hf : s.full = true <;> simp [hq, hf]
    · simp [hq]

/-- P-KICK is a KICK and then the end of the producer's step. -/
theorem pKick_next {p : Producer} : pKick p s = .next t ↔ ∃ u, kick s = .next u ∧ t = u.endKick p := by
  simp only [pKick, andThen_next, Host.Outcome.next.injEq, @eq_comm _ t]

/-- What P-KICK does after its KICK: end a transaction, or go on with it. -/
theorem State.endKick_cases (u : State) (p : Producer) :
    (∃ ts, u.work p = [] :: ts ∧
        u.endKick p = ((u.setSeq p ⟨ts, false⟩).setOwner none).completeIfLast p ts) ∨
      ((∀ ts, u.work p ≠ [] :: ts) ∧ u.endKick p = u.setSeq p ⟨u.work p, false⟩) := by
  unfold State.endKick
  split
  · next ts h => exact .inl ⟨ts, h, rfl⟩
  · next h => exact .inr ⟨h, rfl⟩

/-- A producer's step: its P-KICK, its P-ENQ, or nothing. -/
theorem producerStep_next {p : Producer} (h : producerStep p s = .next t) :
    (s.kickp p = true ∧ ∃ u, kick s = .next u ∧ t = u.endKick p) ∨
      (s.kickp p = false ∧ ∃ b bs ts, s.work p = (b :: bs) :: ts ∧ s.enqHold p = none ∧ s.head < s.cfg.N ∧
        t = (s.setSlot s.head b).publish p bs ts) ∨
      t = s := by
  unfold producerStep at h
  split at h
  · next hk => exact .inl ⟨hk, pKick_next.1 h⟩
  · next hk =>
    split at h
    · next b bs ts hw =>
      rcases pEnq_next h with ⟨_, rfl⟩ | ⟨hn, hh, rfl⟩
      · exact .inr (.inr rfl)
      · exact .inr (.inl ⟨by simpa using hk, b, bs, ts, hw, hn, hh, rfl⟩)
    · exact .inr (.inr (by simpa [eq_comm] using h))

/-- ENQ: refused before the first RST, held while M is busy, else accepted. -/
theorem execEnq_cases (b : Byte) (s : State) :
    (s.resetDone = false ∧ execEnq b s = .next (s.mark .noReset)) ∨
      (s.resetDone = true ∧ s.busy .main = true ∧ execEnq b s = .next s) ∨
      (s.resetDone = true ∧ s.busy .main = false ∧ execEnq b s = .next (s.give .main [[b]])) := by
  cases hr : s.resetDone <;> cases hb : s.busy .main <;>
    simp [execEnq, refuse, hold, dataOperand, hr, hb]

/-- TICK: refused before the first RST, held while M is busy, else counted. -/
theorem execTick_cases (s : State) :
    (s.resetDone = false ∧ execTick s = .next (s.mark .noReset)) ∨
      (s.resetDone = true ∧ s.busy .main = true ∧ execTick s = .next s) ∨
      (s.resetDone = true ∧ s.busy .main = false ∧ execTick s = .next s.countTick) := by
  cases hr : s.resetDone <;> cases hb : s.busy .main <;> simp [execTick, refuse, hold, hr, hb]

/-- TICK's acceptance: the threshold is reached, or the counter goes up by one. -/
theorem State.countTick_cases (s : State) :
    (s.cfg.T ≤ s.hb.toNat + 1 ∧ s.countTick = { s with hb := 0 }.give .main [frame .heartbeat]) ∨
      (s.hb.toNat + 1 < s.cfg.T ∧ s.countTick = { s with hb := BitVec.ofNat 16 (s.hb.toNat + 1) }) := by
  by_cases h : s.cfg.T ≤ s.hb.toNat + 1
  · exact .inl ⟨h, by simp [State.countTick, h]⟩
  · exact .inr ⟨by omega, by simp [State.countTick, h]⟩

/-- PCHG: refused for a group the block does not have and before the first RST, held while its monitor is busy,
else accepted. -/
theorem execPchg_cases (g : BitVec 4) (v : Byte) (s : State) :
    (s.cfg.G ≤ g.toNat ∧ execPchg g v s = .next (s.mark .badGroup)) ∨
      (g.toNat < s.cfg.G ∧ s.resetDone = false ∧ execPchg g v s = .next (s.mark .noReset)) ∨
      (g.toNat < s.cfg.G ∧ s.resetDone = true ∧ s.busy (.monitor g.toNat) = true ∧ execPchg g v s = .next s) ∨
      (g.toNat < s.cfg.G ∧ s.resetDone = true ∧ s.busy (.monitor g.toNat) = false ∧
        execPchg g v s = .next (s.startInvocation g.toNat v)) := by
  by_cases hg : s.cfg.G ≤ g.toNat
  · simp [execPchg, refuse, groupIndex, hg]
  · have hg' : g.toNat < s.cfg.G := by omega
    cases hr : s.resetDone <;> cases hb : s.busy (.monitor g.toNat) <;>
      simp [execPchg, refuse, hold, dataOperand, groupIndex, hg', hr, hb]

/-- PCHG's acceptance: no event, and the invocation completes at once; or its events are to be enqueued. -/
theorem State.startInvocation_cases (s : State) (g : Nat) (v : Byte) :
    (s.eventsAt g v = [] ∧ s.startInvocation g v = ((s.setCur g v).give (.monitor g) []).complete g) ∨
      (s.eventsAt g v ≠ [] ∧
        s.startInvocation g v = (s.setCur g v).give (.monitor g) ((s.eventsAt g v).map frame)) := by
  by_cases h : s.eventsAt g v = []
  · exact .inl ⟨h, by simp [State.startInvocation, h]⟩
  · exact .inr ⟨h, by simp [State.startInvocation, h]⟩

/-- TXC: refused before the first RST; a fault recorded when nothing is in flight; else the next byte is handed
off, or sending stops. -/
theorem execTxc_next (h : execTxc s = .next t) :
    (s.resetDone = false ∧ t = s.mark .noReset) ∨
      (s.resetDone = true ∧ s.sending = false ∧ t = s.recordFault .spuriousTxc 0x5000) ∨
      (s.resetDone = true ∧ s.sending = true ∧ s.empty = false ∧ s.tail < s.cfg.N ∧
        t = s.takeNext (s.slotByte s.tail)) ∨
      (s.resetDone = true ∧ s.sending = true ∧ s.empty = true ∧ t = { s with sending := false }) := by
  cases hr : s.resetDone <;> cases hs : s.sending <;> cases he : s.empty <;>
    simp [execTxc, refuse, raiseFault, transmitComplete, handOff_next, hr, hs, he] at h ⊢ <;>
    simp [h]

/-- A chosen step leaves everything but the plan and the draw number. -/
theorem State.choose_some {c : Choice} (h : s.choose = some (c, t)) :
    ∃ cs d, t = { s with plan := cs, draws := d } := by
  unfold State.choose at h
  split at h
  · next c' cs hp =>
    simp only [Option.some.injEq, Prod.mk.injEq] at h
    exact ⟨cs, s.draws, h.2.symm⟩
  · split at h
    · unfold State.freeChoiceStep at h
      split at h
      · exact absurd h (by simp)
      · simp only [Option.some.injEq, Prod.mk.injEq] at h
        exact ⟨s.plan, s.draws, h.2.symm⟩
      · simp only [Option.map_eq_some_iff, Prod.mk.injEq] at h
        obtain ⟨x, _, _, rfl⟩ := h
        exact ⟨s.plan, s.draws + 1, rfl⟩
    · simp only [Option.map_eq_some_iff, Prod.mk.injEq] at h
      obtain ⟨x, _, _, rfl⟩ := h
      exact ⟨s.plan, s.draws, rfl⟩

/-- Taking a presented input: there is none; a `.seed` directive; a refused word; a held operation; or an
operation that is run. -/
theorem accept_next {k : Nat} (h : accept k s = .next t) :
    (s.inbox[k]? = none ∧ t = s) ∨
      (∃ vs, s.inbox[k]? = some (.seed vs) ∧ t = (s.consume k).withSeed vs) ∨
      (∃ w, s.inbox[k]? = some (.word w) ∧
        ((∃ r, decode s.cfg.G w = .error r ∧ t = (s.consume k).mark r) ∨
          (∃ i, decode s.cfg.G w = .ok i ∧
            ((acceptHold i s ≠ none ∧ t = s) ∨
              (acceptHold i s = none ∧ exec i (s.consume k) = .next t))))) := by
  unfold accept at h
  split at h
  · next hn => exact .inl ⟨hn, by simpa [eq_comm] using h⟩
  · next vs hv => exact .inr (.inl ⟨vs, hv, by simpa [eq_comm] using h⟩)
  · next w hw =>
    refine .inr (.inr ⟨w, hw, ?_⟩)
    unfold acceptWord at h
    split at h
    · next r hr => exact .inl ⟨r, hr, by simpa [refuse, eq_comm] using h⟩
    · next i hi =>
      refine .inr ⟨i, hi, ?_⟩
      split at h
      · next r hr => exact .inl ⟨by simp [hr], by simpa [hold, eq_comm] using h⟩
      · next hn => exact .inr ⟨hn, h⟩

/-- One step: the configuration is well formed, and nothing is enabled or the chosen step is taken. -/
theorem step_next (h : step s = .next t) :
    s.cfg.wf = true ∧
      ((s.choose = none ∧ t = s) ∨ ∃ c u, s.choose = some (c, u) ∧ perform c u = .next t) := by
  unfold step checkedStep at h
  split at h
  · next hw =>
    refine ⟨hw, ?_⟩
    unfold stepChosen at h
    split at h
    · next hc => exact .inl ⟨hc, by simpa [eq_comm] using h⟩
    · next c u hc => exact .inr ⟨c, u, hc, h⟩
  · exact absurd h (by simp)

/-- In a well-formed configuration the chosen step is taken. -/
theorem step_of_choose {c : Choice} {u : State} (hw : s.cfg.wf = true) (hc : s.choose = some (c, u)) :
    step s = perform c u := by
  simp [step, checkedStep, stepChosen, hw, hc]

end Sys2Proof.Machine
end

