-- ==== Sys2Proof/Tests/Slice0.lean ====
section
/-! SUPPORT. Small tests, each with its expected result from 95_test_vectors.md, and for every statement with
hypotheses a state and operands that meet them all. -/

namespace Sys2Proof.Tests

open Sys2Proof Sys2Proof.Machine

/-! ## Helpers -/

/-- EX1 with `n` slots and threshold `t` (00_scope.md R8). -/
def ex1 (n t : Nat) : Config := { Config.reference with N := n, T := t }

/-- Just after reset, EX1 with `n` slots and threshold `t`. -/
def fresh (n t : Nat) : State := { State.reset with cfg := ex1 n t }

/-- Just after reset with one word presented and to be taken next. -/
def withWord (w : OpWord) (s : State) : State := s.present w

/-- The next state's value of an observation. -/
def after {α : Type} (o : Result) (f : State → α) : Option α := (nextState? o).map f

/-! ## Well-formedness: an ill-formed term for each check -/

theorem test_wf_pchg_group : Instr.wf 3 (.pchg 3 0xFF) = false ∧ Instr.wf 3 (.pchg 2 0xFF) = true := by decide

theorem test_wf_reference : Config.reference.wf = true := by decide

theorem test_wf_capacity : (ex1 1 1000).wf = false ∧ (ex1 257 1000).wf = false ∧ (ex1 256 1000).wf = true ∧
    (ex1 2 1000).wf = true := by decide

theorem test_wf_threshold : (ex1 8 0).wf = false ∧ (ex1 8 65536).wf = false ∧ (ex1 8 65535).wf = true := by decide

theorem test_wf_groups : { Config.reference with G := 0, bind := [] }.wf = false ∧
    { Config.reference with W := 9 }.wf = false ∧ { Config.reference with G := 4 }.wf = false := by decide

theorem test_wf_one_hot : { Config.reference with
    bind := [[⟨0x03, .up⟩, ⟨0x04, .down⟩], [⟨0x01, .right⟩, ⟨0x02, .left⟩], [⟨0x01, .actionA⟩, ⟨0x02, .actionB⟩]]
    }.wf = false := by decide

theorem test_wf_distinct : { Config.reference with
    bind := [[⟨0x01, .up⟩, ⟨0x01, .down⟩], [⟨0x01, .right⟩, ⟨0x02, .left⟩], [⟨0x01, .actionA⟩, ⟨0x02, .actionB⟩]]
    }.wf = false := by decide

theorem test_wf_commands : { Config.reference with
    bind := [[⟨0x01, .up⟩, ⟨0x02, .up⟩], [⟨0x01, .right⟩, ⟨0x02, .left⟩], [⟨0x01, .actionA⟩, ⟨0x02, .actionB⟩]]
    }.wf = false ∧ { Config.reference with
    bind := [[⟨0x01, .up⟩, ⟨0x02, .down⟩], [⟨0x01, .right⟩, ⟨0x02, .left⟩, ⟨0x04, .heartbeat⟩],
      [⟨0x01, .actionA⟩, ⟨0x02, .actionB⟩]] }.wf = false := by decide

/-! ## Decoding (95_test_vectors.md 2.1, V-D1 to V-D17) -/

theorem test_decode_rst : decode 3 0x1000 = .ok .rst ∧ decode 3 0x1001 = .error .badField ∧
    decode 3 0x1100 = .error .badField := ⟨rfl, rfl, rfl⟩

theorem test_decode_enq : decode 3 0x2055 = .ok (.enq 0x55) ∧ decode 3 0x2000 = .ok (.enq 0x00) ∧
    decode 3 0x2155 = .error .badField := ⟨rfl, rfl, rfl⟩

theorem test_decode_pchg : decode 3 0x30FE = .ok (.pchg 0 0xFE) ∧ decode 3 0x32FD = .ok (.pchg 2 0xFD) ∧
    decode 3 0x33FF = .error .badGroup ∧ decode 3 0x3FFF = .error .badGroup := ⟨rfl, rfl, rfl, rfl⟩

theorem test_decode_tick : decode 3 0x4000 = .ok .tick ∧ decode 3 0x4001 = .error .badField := ⟨rfl, rfl⟩

theorem test_decode_txc : decode 3 0x5000 = .ok .txc ∧ decode 3 0x5800 = .error .badField := ⟨rfl, rfl⟩

theorem test_decode_reserved : decode 3 0x0000 = .error .reservedOp ∧ decode 3 0x6000 = .error .reservedOp ∧
    decode 3 0xFFFF = .error .reservedOp := ⟨rfl, rfl, rfl⟩

theorem test_decodeTableWord : decodeTableWord 16 0x1000 = some .rst ∧
    decodeTableWord 16 0x20A5 = some (.enq 0xA5) ∧ decodeTableWord 16 0x317E = some (.pchg 1 0x7E) ∧
    decodeTableWord 16 0x4000 = some .tick ∧ decodeTableWord 16 0x5000 = some .txc ∧
    decodeTableWord 16 0x6000 = none := by decide

/-! ## The encoder and the notation (95_test_vectors.md 2.2; 30_encoding.md R80 to R83) -/

/-- V-C1 to V-C7. -/
theorem test_frames : Command.all.map frame =
    [[0x55, 0x0A], [0x44, 0x0A], [0x52, 0x0A], [0x4C, 0x0A], [0x41, 0x0A], [0x42, 0x0A], [0x48, 0x0A]] := by decide

/-- The end of program P3: read as lines `L`, `H`. -/
theorem test_readEvents : readEvents [0x4C, 0x0A, 0x48, 0x0A] = [.left, .heartbeat] ∧
    readEvents banner = [] := by decide

/-- V-C8. -/
theorem test_banner_words : (ProgramLine.send banner).expand =
    [.word 0x2053, .word 0x2054, .word 0x2041, .word 0x2052, .word 0x2054, .word 0x200A] := by decide

/-- `PCHG 1, 0xFE ; x` and `ENQ 'S'` and `.seed 0xFF, 85` as texts (30_encoding.md R82, R83). -/
theorem test_parse : parseLine ['P', 'C', 'H', 'G', ' ', '1', ',', ' ', '0', 'x', 'F', 'E', ' ', ';', 'x'] =
      some (.op (.pchg 1 0xFE)) ∧
    parseLine ['E', 'N', 'Q', ' ', '\'', 'S', '\''] = some (.op (.enq 0x53)) ∧
    parseLine ['.', 's', 'e', 'e', 'd', ' ', '0', 'x', 'F', 'F', ',', ' ', '8', '5'] =
      some (.seed [0xFF, 0x55]) := by decide

/-! ## RST (95_test_vectors.md 2.9) -/

/-- The state before V-S1's RST. -/
def beforeRst : State :=
  { fresh 4 1000 with
    head := 3, tail := 1, sending := true, owner := some (.monitor 0), hb := 5, wire := [0x41],
    mon := [⟨0, 0, ⟨[[0x0A]], false⟩⟩, ⟨0, 0, Sequencer.idle⟩, ⟨0, 0, Sequencer.idle⟩], seed := [0xAA, 0x55, 0xFF] }

/-- V-S1. -/
theorem test_rst_values :
    after (exec .rst beforeRst) (fun t => (t.head, t.tail, t.sending, t.owner)) = some (0, 0, false, none) ∧
    after (exec .rst beforeRst) (fun t => (t.mon.map (·.snap), t.mon.map (·.seq.work))) =
      some ([0xAA, 0x55, 0xFF], [[], [], []]) ∧
    after (exec .rst beforeRst) (fun t => (t.hb, t.wire, t.faults)) = some (0, [0x41], []) := by decide

/-- V-S2: a TXC just after RST faults; V-S3: an ENQ before the first RST is refused. -/
theorem test_first_operations : after (step (withWord 0x5000 State.reset)) (·.faults) =
      some [⟨.spuriousTxc, 0x5000⟩] ∧
    after (step (withWord 0x2041 State.powerOn)) (fun t => (t.refusals, t.main.work)) =
      some ([.noReset], []) := by decide

/-! ## ENQ (95_test_vectors.md 2.6) -/

/-- V-E1, V-E2, V-E3. -/
theorem test_enq : after (exec (.enq 0x53) (fresh 8 1000)) (·.main) = some ⟨[[0x53]], false⟩ ∧
    after (exec (.enq 0x53) { fresh 8 1000 with main := ⟨[[0x45]], false⟩ }) (·.main) = some ⟨[[0x45]], false⟩ ∧
    after (exec (.enq 0x53) { fresh 8 1000 with main := ⟨[], true⟩ }) (·.main) = some ⟨[], true⟩ := by decide

/-- The example of 40_ring_buffer.md R106. -/
theorem test_enq_example : after (enqueueByte 0x53 (fresh 8 1000))
    (fun t => (t.buf, t.head, t.tail, t.sending, t.wire)) = some ([(0, 0x53)], 1, 1, true, [0x53]) := by decide

/-! ## PCHG (95_test_vectors.md 2.7) -/

/-- The state of a PCHG vector: group `g` with snapshot `snap`. -/
def monitorAt (g : Nat) (snap : Byte) : State := (fresh 8 1000).updMon g fun m => { m with snap := snap }

/-- V-P1, V-P2, V-P6, V-P7, V-P8: falling edges, in binding order. -/
theorem test_pchg_falls :
    after (exec (.pchg 0 0xFE) (monitorAt 0 0xFF)) (·.work (.monitor 0)) = some [[0x55, 0x0A]] ∧
    after (exec (.pchg 0 0xFC) (monitorAt 0 0xFF)) (·.work (.monitor 0)) = some [[0x55, 0x0A], [0x44, 0x0A]] ∧
    after (exec (.pchg 0 0xFC) (monitorAt 0 0xFD)) (·.work (.monitor 0)) = some [[0x55, 0x0A]] ∧
    after (exec (.pchg 0 0xFD) (monitorAt 0 0xFE)) (·.work (.monitor 0)) = some [[0x44, 0x0A]] ∧
    after (exec (.pchg 2 0x00) (monitorAt 2 0xFF)) (·.work (.monitor 2)) = some [[0x41, 0x0A], [0x42, 0x0A]] := by
  decide

/-- V-P3, V-P4, V-P5: no event, the snapshot set at acceptance. -/
theorem test_pchg_quiet :
    after (exec (.pchg 0 0xFF) (monitorAt 0 0xFE)) (fun t => (t.work (.monitor 0), t.snap 0)) = some ([], 0xFF) ∧
    after (exec (.pchg 0 0xFE) (monitorAt 0 0xFE)) (fun t => (t.work (.monitor 0), t.snap 0)) = some ([], 0xFE) ∧
    after (exec (.pchg 0 0x7F) (monitorAt 0 0xFF)) (fun t => (t.work (.monitor 0), t.snap 0)) = some ([], 0x7F) := by
  decide

/-! ## TICK (95_test_vectors.md 2.8) -/

/-- V-H2, V-H3, V-H4. -/
theorem test_tick : after (exec .tick { fresh 8 1000 with hb := 998 }) (fun t => (t.hb, t.main.work)) =
      some (999, []) ∧
    after (exec .tick { fresh 8 1000 with hb := 999 }) (fun t => (t.hb, t.main.work)) = some (0, [[0x48, 0x0A]]) ∧
    after (exec .tick (fresh 8 1)) (fun t => (t.hb, t.main.work)) = some (0, [[0x48, 0x0A]]) := by decide

/-- V-H5, V-H6. -/
theorem test_tick_edges : after (exec .tick { fresh 8 65535 with hb := 65534 }) (fun t => (t.hb, t.main.work)) =
      some (0, [[0x48, 0x0A]]) ∧
    after (exec .tick { fresh 8 3 with hb := 2, main := ⟨[[0x45]], false⟩ }) (·.hb) = some 2 := by decide

/-! ## TXC (95_test_vectors.md 2.5) -/

/-- V-T1, V-T2, V-T4. -/
theorem test_txc : after (exec .txc { fresh 4 1000 with sending := true, head := 2, tail := 1, buf := [(1, 0x0A)] })
      (fun t => (t.tail, t.wire, t.sending)) = some (2, [0x0A], true) ∧
    after (exec .txc { fresh 4 1000 with sending := true, head := 2, tail := 2 })
      (fun t => (t.tail, t.wire, t.sending)) = some (2, [], false) ∧
    after (exec .txc { fresh 4 1000 with sending := true, head := 0, tail := 3, buf := [(3, 0x42)] })
      (fun t => (t.tail, t.wire, t.sending)) = some (0, [0x42], true) := by decide

/-- V-T3 and V-T6: nothing in flight, whatever is buffered. -/
theorem test_txc_spurious : after (exec .txc { fresh 4 1000 with head := 1, main := ⟨[[]], true⟩ })
    (fun t => (t.faults, t.tail, t.wire, t.sending)) = some ([⟨.spuriousTxc, 0x5000⟩], 0, [], false) := by decide

/-! ## The internal steps (95_test_vectors.md 2.3, 2.4) -/

/-- V-R2, V-R5. -/
theorem test_pEnq : after (producerStep .main { fresh 4 1000 with head := 3, tail := 1, main := ⟨[[0x44]], false⟩ })
      (fun t => (t.buf, t.head, t.owner, t.main)) = some ([(3, 0x44)], 0, some .main, ⟨[[]], true⟩) ∧
    after (producerStep .main { fresh 2 1000 with main := ⟨[[0x41]], false⟩ })
      (fun t => (t.buf, t.head, t.full)) = some ([(0, 0x41)], 1, true) := by decide

/-- V-R3, V-R4, V-R6: held. -/
theorem test_pEnq_held :
    after (producerStep .main { fresh 4 1000 with tail := 1, main := ⟨[[0x45]], false⟩ })
      (fun t => (t.buf, t.head)) = some ([], 0) ∧
    after (producerStep .main { fresh 2 1000 with head := 1, main := ⟨[[0x41]], false⟩ })
      (fun t => (t.buf, t.head)) = some ([], 1) ∧
    after (producerStep .main { fresh 4 1000 with owner := some (.monitor 1), main := ⟨[[0x48, 0x0A]], false⟩ })
      (fun t => (t.buf, t.head)) = some ([], 0) := by decide

/-- V-K1, V-K2, V-K4. -/
theorem test_pKick : after (producerStep .main { fresh 4 1000 with
      head := 1, buf := [(0, 0x41)], owner := some .main, main := ⟨[[]], true⟩ })
      (fun t => (t.sending, t.tail, t.wire, t.owner)) = some (true, 1, [0x41], none) ∧
    after (producerStep .main { fresh 4 1000 with
      sending := true, head := 2, tail := 1, owner := some .main, main := ⟨[[]], true⟩ })
      (fun t => (t.sending, t.tail, t.wire, t.owner)) = some (true, 1, [], none) ∧
    after (kick { fresh 4 1000 with tail := 3, buf := [(3, 0x44)] }) (fun t => (t.sending, t.tail, t.wire)) =
      some (true, 0, [0x44]) := by
  and_intros <;> decide

/-- V-K5: a second event pending; and the last event of an invocation completes it. -/
theorem test_pKick_monitor :
    after (producerStep (.monitor 0) ((({ fresh 4 1000 with owner := some (.monitor 0) }.setCur 0 0xFC)).setSeq
      (.monitor 0) ⟨[[], [0x44, 0x0A]], true⟩))
      (fun t => (t.seq (.monitor 0), t.owner, t.snap 0)) = some (⟨[[0x44, 0x0A]], false⟩, none, 0xFF) ∧
    after (producerStep (.monitor 0) ((({ fresh 4 1000 with owner := some (.monitor 0) }.setCur 0 0xFC)).setSeq
      (.monitor 0) ⟨[[]], true⟩))
      (fun t => (t.seq (.monitor 0), t.owner, t.snap 0)) = some (Sequencer.idle, none, 0xFC) := by decide

/-! ## Steps, words that stay, and the status view -/

/-- Program P6's reserved word, and a word of a busy producer that stays presented. -/
theorem test_words : after (step (withWord 0x6000 (fresh 8 1000))) (fun t => (t.refusals, t.inbox)) =
      some ([.reservedOp], []) ∧
    after (step (withWord 0x2041 { fresh 8 1000 with main := ⟨[[0x45]], false⟩ })) (·.inbox) =
      some [.word 0x2041] := by decide

/-- V-V1, V-V2, V-V3. -/
theorem test_view : State.reset.view 0 = some 0 ∧ State.reset.view 2 = some 2 ∧ State.reset.view 0x12 = some 0xFF ∧
    { fresh 4 1000 with tail := 1, sending := true, main := ⟨[[0x45]], false⟩ }.view 2 = some 0x15 ∧
    State.reset.view 5 = none := by decide

/-- The fixed names on the five rows: each word is run by the first step after reset. -/
theorem test_withFetchWord : after (step (State.reset.withFetchWord 16 0x1000)) (·.head) = some 0 ∧
    after (step (State.reset.withFetchWord 16 0x2041)) (·.main.work) = some [[0x41]] ∧
    after (step (State.reset.withFetchWord 16 0x31FD)) (·.work (.monitor 1)) = some [[0x4C, 0x0A]] ∧
    after (step (State.reset.withFetchWord 16 0x4000)) (·.hb) = some 1 ∧
    after (step (State.reset.withFetchWord 16 0x5000)) (·.faults) = some [⟨.spuriousTxc, 0x5000⟩] := by decide

/-! ## States that meet the statements' hypotheses

One theorem per statement with hypotheses, named after it: all its hypotheses together at a concrete state, and one
state per clause, at the edge of the clause's range where it has one. -/

/-- M about to write its one byte; that step is next. -/
def toWrite : State := { fresh 2 1 with main := ⟨[[0x41]], false⟩, plan := [.producer .main] }

/-- M about to kick after its last byte, nothing in flight; that step is next. -/
def toKick : State :=
  { fresh 2 1 with
    head := 1, buf := [(0, 0x41)], main := ⟨[[]], true⟩, owner := some .main, plan := [.producer .main] }

/-- M about to kick between the two bytes of a heartbeat. -/
def toKickMid : State := { toKick with main := ⟨[[0x0A]], true⟩ }

/-- A byte in flight and one buffered in the last slot, the ring full, nobody busy. -/
def sendingFull : State :=
  { fresh 2 1 with head := 0, tail := 1, sending := true, buf := [(0, 0x41), (1, 0x42)], wire := [0x41] }

/-- A byte in flight, the ring empty. -/
def sendingEmpty : State := { fresh 2 1 with head := 1, tail := 1, sending := true, wire := [0x41] }

/-- As `sendingFull`, with M waiting in FULL. -/
def waitingFull : State := { sendingFull with main := ⟨[[0x43]], false⟩ }

/-- Group 0 about to end its invocation. -/
def toComplete : State :=
  { fresh 2 1 with
    head := 1, buf := [(0, 0x0A)], owner := some (.monitor 0), plan := [.producer (.monitor 0)],
    mon := [⟨0xFF, 0xFE, ⟨[[]], true⟩⟩, ⟨0xFF, 0, Sequencer.idle⟩, ⟨0xFF, 0, Sequencer.idle⟩] }

theorem witness_EveryStepKeepsInvariant : toWrite.Inv ∧ (nextState? (step toWrite)).isSome = true ∧
    toKick.Inv ∧ (nextState? (step toKick)).isSome = true ∧ toComplete.Inv ∧
    (nextState? (step toComplete)).isSome = true := by
  and_intros <;> decide

theorem witness_InvariantStatesNeverStop : waitingFull.Inv ∧ sendingEmpty.Inv ∧ toKickMid.Inv := by
  and_intros <;> decide

theorem witness_FieldWriters :
    toWrite.nextWrite = some (.main, [0x41]) ∧ after (step toWrite) (·.head) = some 1 ∧
    after (step toWrite) (·.owner) = some (some .main) ∧
    toKick.nextKick = some .main ∧ after (step toKick) (fun t => (t.tail, t.sending)) = some (1, true) ∧
    after (step toKick) (·.owner) = some none ∧ toComplete.nextKick = some (.monitor 0) ∧
    toComplete.work (.monitor 0) = [[]] ∧ after (step toComplete) (·.snap 0) = some 0xFE ∧
    (withWord 0x5000 sendingFull).runs = some .txc ∧
    after (step (withWord 0x5000 sendingFull)) (·.tail) = some 0 := by decide

theorem witness_FieldWriters_inputs :
    (withWord 0x4000 (fresh 2 2)).runs = some .tick ∧
    after (step (withWord 0x4000 (fresh 2 2))) (·.hb) = some 1 ∧
    (withWord 0x30FE (fresh 2 2)).runs = some (.pchg 0 0xFE) ∧
    after (step (withWord 0x30FE (fresh 2 2))) (·.cur 0) = some 0xFE ∧
    (withWord 0x1000 toKick).runs = some .rst ∧ after (step (withWord 0x1000 toKick)) (·.head) = some 0 := by
  decide

theorem witness_RecordsOnlyGrow : (withWord 0x5000 (fresh 2 1)).runs = some .txc ∧
    after (step (withWord 0x5000 (fresh 2 1))) (·.faults) = some [⟨.spuriousTxc, 0x5000⟩] := by decide

theorem witness_DecodeEncodeAgree : Instr.wf 1 (.pchg 0 0xFF) = true ∧ Instr.wf 16 (.pchg 15 0x00) = true ∧
    Instr.wf 1 (.enq 0xFF) = true ∧ Instr.wf 1 .rst = true := by decide

theorem witness_DecodedWordEncodesBack : decode 16 0x3FFF = .ok (.pchg 15 0xFF) ∧ decode 1 0x20FF = .ok (.enq 0xFF) :=
  ⟨rfl, rfl⟩

/-- Both clauses: an idle producer's word is run, a busy one's is held. -/
theorem witness_StepRunsDecodedInstruction :
    (fresh 2 1).cfg.wf = true ∧
    (withWord 0x2041 (fresh 2 1)).choose =
      some (.accept 0, { withWord 0x2041 (fresh 2 1) with plan := [] }) ∧
    (withWord 0x2041 (fresh 2 1)).inbox[0]? = some (.word 0x2041) ∧
    acceptHold (.enq 0x41) (fresh 2 1) = none ∧ acceptHold (.enq 0x41) waitingFull = some .busy := by decide

theorem witness_PlacedWordRunsNext : sendingFull.cfg.wf = true ∧
    acceptHold (.pchg 2 0xFD) sendingFull = none := by decide

theorem witness_PlacedWordRunsNext_word : decode sendingFull.cfg.G (tableWord 16 0x32FD) = .ok (.pchg 2 0xFD) := rfl

theorem witness_RefusedWordLeavesOnlyItsMark : (fresh 2 1).cfg.wf = true ∧
    (withWord 0x6000 (fresh 2 1)).choose =
      some (.accept 0, { withWord 0x6000 (fresh 2 1) with plan := [] }) ∧
    (withWord 0x6000 (fresh 2 1)).inbox[0]? = some (.word 0x6000) := by decide

theorem witness_RefusedWordLeavesOnlyItsMark_word : decode (fresh 2 1).cfg.G 0x6000 = .error .reservedOp := rfl

theorem witness_SeedDirectiveSetsSeeds : (fresh 2 1).cfg.wf = true ∧
    { fresh 2 1 with inbox := [.seed [0xAA]], plan := [.accept 0] }.choose =
      some (.accept 0, { fresh 2 1 with inbox := [.seed [0xAA]] }) ∧
    { fresh 2 1 with inbox := [.seed [0xAA]] }.inbox[0]? = some (.seed [0xAA]) := by decide

theorem witness_OperationsBeforeFirstResetRefused : State.powerOn.resetDone = false ∧ Instr.txc ≠ .rst ∧
    Instr.wf State.powerOn.cfg.G (.pchg 2 0) = true ∧ Instr.wf State.powerOn.cfg.G .txc = true := by decide

theorem witness_PlannedStepIsTaken : toWrite.cfg.wf = true ∧ toWrite.plan = [.producer .main] := by decide

/-- Two steps enabled: the choice between them is a free value. -/
theorem witness_FreePolicyTakesAnEnabledStep :
    { toWrite with plan := [], inbox := [.word 0x5000] }.enabledChoices = [.producer .main, .accept 0] ∧
    (fresh 2 1).enabledChoices = [] ∧ (fresh 2 1).plan = [] ∧ (fresh 2 1).policy = .free := by decide

/-- The three clauses: an enabled producer comes first; with none the next input is presented; with neither the
block waits. -/
theorem witness_ReferenceScheduleOrder :
    { toWrite with plan := [], policy := .eager, inbox := [.word 0x5000] }.choose =
      some (.producer .main, { toWrite with plan := [], policy := .eager, inbox := [.word 0x5000] }) ∧
    { fresh 2 1 with policy := .eager, inbox := [.word 0x5000] }.choose =
      some (.accept 0, { fresh 2 1 with policy := .eager, inbox := [.word 0x5000] }) ∧
    { fresh 2 1 with policy := .eager }.plan = [] ∧ { fresh 2 1 with policy := .eager }.choose = none := by decide

theorem witness_AcceptanceHeldIffBusy : waitingFull.resetDone = true ∧ waitingFull.busy .main = true ∧
    waitingFull.busy (.monitor 2) = false := by decide

/-- RstResult, RstFrame and RstAbandonsByteInFlight, with the seeds' clause at the last group. -/
theorem witness_Rst : (nextState? (exec .rst beforeRst)).isSome = true ∧ 2 < beforeRst.cfg.G ∧
    beforeRst.seed[2]? = some 0xFF := by decide

theorem witness_RstTwiceIsRstOnce : ([0x01, 0x02, 0x03] : List Byte).length = beforeRst.cfg.G ∧
    (nextState? (exec .rst (beforeRst.afterRst.withSeed [0x01, 0x02, 0x03]))).isSome = true ∧
    (nextState? (exec .rst (beforeRst.withSeed [0x01, 0x02, 0x03]))).isSome = true := by decide

/-- ENQ's and TICK's clauses: M idle, and M busy. -/
theorem witness_EnqResult : (fresh 2 1).resetDone = true ∧ (fresh 2 1).busy .main = false ∧
    waitingFull.resetDone = true ∧ waitingFull.busy .main = true := by decide

theorem witness_EnqFrame : (nextState? (exec (.enq 0xFF) (fresh 2 1))).isSome = true ∧
    (nextState? (exec (.enq 0xFF) waitingFull)).isSome = true := by decide

theorem witness_EnqOnIdleBlockTransmits : (fresh 2 1).Inv ∧ (fresh 2 1).Quiet ∧ (fresh 2 1).resetDone = true ∧
    (fresh 2 1).sending = false := by decide

theorem witness_ThreeEnqueuesScenario : (fresh 3 1).Inv ∧ (fresh 3 1).Quiet ∧ (fresh 3 1).resetDone = true ∧
    (fresh 3 1).sending = false ∧ 3 ≤ (fresh 3 1).cfg.N := by decide

/-- PCHG's clauses at the last group: its monitor idle, and busy. -/
theorem witness_PchgResult : (fresh 2 1).resetDone = true ∧ (2 : BitVec 4).toNat < (fresh 2 1).cfg.G ∧
    (fresh 2 1).mon.length = (fresh 2 1).cfg.G ∧ (fresh 2 1).busy (.monitor 2) = false ∧
    toComplete.resetDone = true ∧ toComplete.mon.length = toComplete.cfg.G ∧
    toComplete.busy (.monitor 0) = true := by decide

theorem witness_PchgFrame : (nextState? (exec (.pchg 2 0xFD) (fresh 2 1))).isSome = true ∧
    (nextState? (exec (.pchg 3 0xFD) (fresh 2 1))).isSome = true := by decide

/-- Both directions: LEFT's pin (bit 1 of group 1) falls, and does not. -/
theorem witness_EventIffPressed : (fresh 2 1).cfg.wf = true ∧ (fresh 2 1).resetDone = true ∧
    (1 : BitVec 4).toNat < (fresh 2 1).cfg.G ∧ (fresh 2 1).mon.length = (fresh 2 1).cfg.G ∧
    (fresh 2 1).busy (.monitor 1) = false ∧ (⟨0x02, .left⟩ : Binding) ∈ (fresh 2 1).cfg.bindings 1 ∧
    (0x02 : Byte) = BitVec.twoPow 8 1 ∧
    after (exec (.pchg 1 0xFD) (fresh 2 1)) (·.work (.monitor 1)) = some [[0x4C, 0x0A]] ∧
    after (exec (.pchg 1 0xFE) (fresh 2 1)) (·.work (.monitor 1)) = some [[0x52, 0x0A]] := by
  and_intros <;> decide

/-- The clause on the last P-KICK of an invocation. -/
theorem witness_SnapshotIsLastCompletedRead : toComplete.Inv ∧ 0 < toComplete.cfg.G ∧
    toComplete.nextKick = some (.monitor 0) ∧ toComplete.work (.monitor 0) = [[]] ∧
    after (step toComplete) (fun t => (t.snap 0, t.cur 0)) = some (0xFE, 0xFE) := by
  and_intros <;> decide

/-- The clauses on PCHG, at the last group: a read with no event changes the snapshot (0xFE to 0xFF), a read with an
event does not. -/
theorem witness_SnapshotIsLastCompletedRead_pchg :
    (withWord 0x32FF (monitorAt 2 0xFE)).Inv ∧ (withWord 0x32FF (monitorAt 2 0xFE)).resetDone = true ∧
    (withWord 0x32FF (monitorAt 2 0xFE)).runs = some (.pchg 2 0xFF) ∧
    (withWord 0x32FF (monitorAt 2 0xFE)).eventsAt 2 0xFF = [] ∧
    after (step (withWord 0x32FF (monitorAt 2 0xFE))) (fun t => (t.snap 2, t.cur 2)) = some (0xFF, 0xFF) ∧
    (withWord 0x32FD (fresh 2 1)).Inv ∧ (withWord 0x32FD (fresh 2 1)).runs = some (.pchg 2 0xFD) ∧
    (withWord 0x32FD (fresh 2 1)).eventsAt 2 0xFD = [.actionB] ∧
    after (step (withWord 0x32FD (fresh 2 1))) (fun t => (t.snap 2, t.cur 2)) = some (0xFF, 0xFD) := by
  and_intros <;> decide

/-- A read of group 0 with no event, a TICK, and a second read: UP's pin is 1 in the first and 0 in the second. -/
def twoReads : State :=
  { fresh 2 2 with
    inbox := [.word 0x30FD, .word 0x4000, .word 0x30FE], plan := [.accept 0, .accept 0, .accept 0],
    mon := [⟨0xFD, 0, Sequencer.idle⟩, ⟨0xFF, 0, Sequencer.idle⟩, ⟨0xFF, 0, Sequencer.idle⟩] }

/-- `twoReads` with RST and the seed 0xFD in the place of the first read. -/
def seedThenRead : State :=
  { twoReads with inbox := [.word 0x1000, .word 0x4000, .word 0x30FE], seed := [0xFD, 0xFF, 0xFF] }

theorem witness_EdgeLawOverTwoReads : twoReads.Inv ∧ twoReads.resetDone = true ∧
    twoReads.runs = some (.pchg 0 0xFD) ∧ after (step twoReads) (runsOnly (notRstOrGroup 0) 1) = some true ∧
    after (runSteps 2 twoReads) (·.runs) = some (some (.pchg 0 0xFE)) ∧
    after (runSteps 3 twoReads) (·.work (.monitor 0)) = some [[0x55, 0x0A]] ∧
    (⟨0x01, .up⟩ : Binding) ∈ twoReads.cfg.bindings 0 ∧ (0x01 : Byte) = BitVec.twoPow 8 0 := by
  and_intros <;> decide

theorem witness_EdgeLawOverTwoReads_seed : seedThenRead.Inv ∧ seedThenRead.runs = some .rst ∧
    seedThenRead.seed[(0 : BitVec 4).toNat]? = some 0xFD ∧
    after (step seedThenRead) (runsOnly (notRstOrGroup 0) 1) = some true ∧
    after (runSteps 2 seedThenRead) (·.runs) = some (some (.pchg 0 0xFE)) ∧
    after (runSteps 3 seedThenRead) (·.work (.monitor 0)) = some [[0x55, 0x0A]] := by
  and_intros <;> decide

/-- TICK's clauses at the edges: the threshold just reached, just not reached, and M busy. -/
theorem witness_TickResult : (fresh 2 65535).resetDone = true ∧ { fresh 2 65535 with hb := 65534 }.busy .main = false ∧
    (fresh 2 65535).cfg.T ≤ { fresh 2 65535 with hb := 65534 }.hb.toNat + 1 ∧
    { fresh 2 65535 with hb := 65533 }.hb.toNat + 1 < (fresh 2 65535).cfg.T ∧
    waitingFull.busy .main = true := by decide

theorem witness_TickFrame : (nextState? (exec .tick (fresh 2 1))).isSome = true ∧
    (nextState? (exec .tick (fresh 2 2))).isSome = true := by decide

theorem witness_HeartbeatEveryThreshold : (fresh 2 1).resetDone = true ∧ (fresh 2 1).hb = 0 ∧
    1 ≤ (fresh 2 1).cfg.T ∧ (fresh 2 65535).cfg.T ≤ 65535 := by decide

/-- TXC's clauses: nothing in flight, with and without an earlier record; a byte buffered in the last slot; the ring
empty. -/
theorem witness_TxcResult : (fresh 2 1).resetDone = true ∧ (fresh 2 1).sending = false ∧
    sendingFull.sending = true ∧ sendingFull.head ≠ sendingFull.tail ∧ sendingFull.tail < sendingFull.cfg.N ∧
    sendingEmpty.sending = true ∧ sendingEmpty.head = sendingEmpty.tail ∧
    { fresh 2 1 with faults := [⟨.spuriousTxc, 0x5000⟩] }.sending = false ∧
    after (exec .txc { fresh 2 1 with faults := [⟨.spuriousTxc, 0x5000⟩] }) (·.faults) =
      some [⟨.spuriousTxc, 0x5000⟩] := by decide

theorem witness_TxcFrame : (nextState? (exec .txc (fresh 2 1))).isSome = true ∧
    (nextState? (exec .txc sendingFull)).isSome = true ∧
    (nextState? (exec .txc sendingEmpty)).isSome = true := by decide

/-- P-ENQ's clauses: locked by another, full, and free at the first and the last slot. -/
theorem witness_PEnqResult : toWrite.kickp .main = false ∧ toWrite.work .main = [[0x41]] ∧
    toWrite.mon.length = toWrite.cfg.G ∧ .main ∈ toWrite.producers ∧ toWrite.owner = none ∧
    (toWrite.head + 1) % toWrite.cfg.N ≠ toWrite.tail ∧ toWrite.head < toWrite.cfg.N ∧
    waitingFull.work .main = [[0x43]] ∧ waitingFull.kickp .main = false ∧
    (waitingFull.head + 1) % waitingFull.cfg.N = waitingFull.tail := by decide

theorem witness_PEnqResult_locked :
    { toWrite with owner := some (.monitor 2) }.owner ≠ none ∧
    { toWrite with owner := some (.monitor 2) }.owner ≠ some .main ∧
    { toWrite with head := 1, tail := 1, owner := some .main }.work .main = [[0x41]] := by decide

/-- KICK's clauses: it starts; a byte is in flight; the ring is empty. -/
theorem witness_KickResult : toKick.sending = false ∧ toKick.head ≠ toKick.tail ∧ toKick.tail < toKick.cfg.N ∧
    sendingFull.sending = true ∧ (fresh 2 1).head = (fresh 2 1).tail := by decide

/-- P-KICK's clauses: the end of a transaction, the middle of one, and the end of an invocation. -/
theorem witness_PKickResult : toKick.kickp .main = true ∧ toKick.work .main = [[]] ∧
    toKickMid.kickp .main = true ∧ toKickMid.work .main = [[0x0A]] ∧ .main ∈ toKick.producers ∧
    toKick.mon.length = toKick.cfg.G ∧ (nextState? (kick toKick)).isSome = true ∧
    toComplete.kickp (.monitor 0) = true ∧ toComplete.work (.monitor 0) = [[]] ∧
    .monitor 0 ∈ toComplete.producers := by decide

theorem witness_RingCapacity : sendingFull.Inv ∧ sendingFull.count = 1 ∧ sendingFull.full = true ∧
    sendingEmpty.Inv ∧ sendingEmpty.empty = true := by decide

/-- Both alternatives: a byte written, a byte handed off. -/
theorem witness_ByteLeavesOnceInOrder : toWrite.Inv ∧ toWrite.writes = [0x41] ∧ toWrite.runs ≠ some .rst ∧
    toKick.Inv ∧ toKick.pending = [0x41] ∧ after (step toKick) (fun t => (t.wire, t.pending)) =
      some ([0x41], []) := by
  and_intros <;> decide

theorem witness_FifoExactlyOnce : { toWrite with plan := [.producer .main, .producer .main] }.Inv ∧
    runsOnly notRst 2 { toWrite with plan := [.producer .main, .producer .main] } = true ∧
    after (runSteps 2 { toWrite with plan := [.producer .main, .producer .main] }) (·.wire) = some [0x41] ∧
    enqLog 2 { toWrite with plan := [.producer .main, .producer .main] } = [0x41] := by decide

theorem witness_NoDoubleStart : after (step toKick) (·.wire) = some [0x41] ∧
    after (step (withWord 0x5000 sendingFull)) (·.wire) = some [0x41, 0x42] := by decide

theorem witness_BufferedByteStartsWithoutTrigger : toKick.Inv ∧ toKick.sending = false ∧
    toKick.head ≠ toKick.tail := by decide

/-- Both alternatives: a step is enabled; M waits in FULL. -/
theorem witness_NoDeadlock : toKick.Inv ∧ toKick.busy .main = true ∧ waitingFull.Inv ∧
    waitingFull.resetDone = true ∧ .main ∈ waitingFull.producers ∧ waitingFull.busy .main = true ∧
    producerEnabled waitingFull .main = false := by
  and_intros <;> decide

theorem witness_ProducerStepsLowerDebt : toWrite.Inv ∧ .main ∈ toWrite.producers ∧
    producerEnabled toWrite .main = true ∧ toComplete.Inv ∧ producerEnabled toComplete (.monitor 0) = true := by
  and_intros <;> decide

theorem witness_DrainSendsEveryBufferedByte : sendingFull.Inv ∧ sendingFull.resetDone = true ∧
    sendingFull.sending = true ∧ sendingEmpty.Inv ∧ sendingEmpty.resetDone = true := by decide

theorem witness_NoCompletionNoProgress : waitingFull.sending = true ∧
    { waitingFull with plan := [.producer .main] }.runs = none ∧
    (nextState? (step { waitingFull with plan := [.producer .main] })).isSome = true := by decide

/-- The lock taken, kept in the middle of a transaction, and released at its end. -/
theorem witness_LockHeldToEndOfTransaction : toWrite.Inv ∧ toWrite.nextWrite = some (.main, [0x41]) ∧
    toKickMid.Inv ∧ toKickMid.owner = some .main ∧ after (step toKickMid) (·.owner) = some (some .main) ∧
    toKick.owner = some .main ∧ toKick.nextKick = some .main ∧ after (step toKick) (·.owner) = some none := by
  and_intros <;> decide

/-- A TICK at the threshold and the first byte of its event. -/
def tickRun : State := { withWord 0x4000 (fresh 2 1) with plan := [.accept 0, .producer .main] }

theorem witness_WireReadsBackEvents : tickRun.Inv ∧ tickRun.Quiet ∧ runsOnly notRstOrEnq 2 tickRun = true ∧
    after (runSteps 2 tickRun) (·.pending) = some [0x48] ∧ commandLog 2 tickRun = [.heartbeat] := by decide

/-- The clause on the view after RST, with a supplied seed of the last group. -/
theorem witness_StatusViewContents_rst : beforeRst.cfg.wf = true ∧ beforeRst.head < beforeRst.cfg.N ∧
    beforeRst.tail < beforeRst.cfg.N ∧ beforeRst.seed[2]? = some 0xFF ∧
    after (exec .rst beforeRst) (·.view 0x12) = some (some 0xFF) ∧
    after (exec .rst beforeRst) (·.view 2) = some (some 0x02) := by decide

/-- The status view at the largest ring and its edges. -/
theorem witness_StatusViewContents : (fresh 256 1).cfg.wf = true ∧ (fresh 256 1).head < (fresh 256 1).cfg.N ∧
    (fresh 256 1).tail < (fresh 256 1).cfg.N ∧ (fresh 256 1).view 0x13 = none ∧ (fresh 256 1).view 0xFF = none ∧
    (fresh 256 1).view 0x200 = none ∧ ((fresh 256 1).view 0x1FF).isSome = true := by decide

end Sys2Proof.Tests
end

section
/-! SUPPORT. No chosen step is refused, so a refusal comes from the configuration check alone (60_exceptions.md
R202): one lemma per operation a step is made of. -/

namespace Sys2Proof.Machine

section Refusals

variable {s : State} {r : Refusal}

/-- A sequence is refused by its first part, or by the second where the first goes on. -/
theorem andThen_refused {o : Result} {f : State → Result} :
    andThen o f = .refused r ↔ o = .refused r ∨ ∃ u, o = .next u ∧ f u = .refused r := by
  cases o <;> simp [andThen]

theorem handOff_ne_refused : handOff s ≠ .refused r := by
  unfold handOff
  split <;> simp

theorem kick_ne_refused : kick s ≠ .refused r := by
  unfold kick
  split
  · exact handOff_ne_refused
  · simp

theorem pKick_ne_refused {p : Producer} : pKick p s ≠ .refused r := by
  simp [pKick, andThen_refused, kick_ne_refused]

theorem pEnq_ne_refused {p : Producer} {b : Byte} {bs : List Byte} {ts : List (List Byte)} :
    pEnq p b bs ts s ≠ .refused r := by
  unfold pEnq
  split
  · simp [hold]
  · split <;> simp

theorem producerStep_ne_refused {p : Producer} : producerStep p s ≠ .refused r := by
  unfold producerStep
  split
  · exact pKick_ne_refused
  · split
    · exact pEnq_ne_refused
    · simp

theorem execTxc_ne_refused : execTxc s ≠ .refused r := by
  unfold execTxc
  split
  · simp [refuse]
  · split
    · simp [raiseFault]
    · unfold transmitComplete
      split
      · exact handOff_ne_refused
      · simp

/-- Every operation has a meaning in every state: what it refuses is a mark, and the run goes on. -/
theorem exec_ne_refused {i : Instr} : exec i s ≠ .refused r := by
  cases i with
  | rst => simp [exec, execRst]
  | enq b => obtain ⟨-, h⟩ | ⟨-, -, h⟩ | ⟨-, -, h⟩ := execEnq_cases b s <;> simp [exec, h]
  | pchg g v =>
    obtain ⟨-, h⟩ | ⟨-, -, h⟩ | ⟨-, -, -, h⟩ | ⟨-, -, -, h⟩ := execPchg_cases g v s <;> simp [exec, h]
  | tick => obtain ⟨-, h⟩ | ⟨-, -, h⟩ | ⟨-, -, h⟩ := execTick_cases s <;> simp [exec, h]
  | txc => exact execTxc_ne_refused

theorem acceptWord_ne_refused {k : Nat} {w : OpWord} : acceptWord k w s ≠ .refused r := by
  unfold acceptWord
  split
  · simp [refuse]
  · split
    · simp [hold]
    · exact exec_ne_refused

theorem accept_ne_refused {k : Nat} : accept k s ≠ .refused r := by
  unfold accept
  split
  · simp
  · simp
  · exact acceptWord_ne_refused

theorem perform_ne_refused {c : Choice} : perform c s ≠ .refused r := by
  cases c with
  | producer p => exact producerStep_ne_refused
  | accept k => exact accept_ne_refused

theorem stepChosen_ne_refused : stepChosen s ≠ .refused r := by
  unfold stepChosen
  split
  · simp
  · exact perform_ne_refused

/-- The one refusal a step answers, and when. -/
theorem step_refused : step s = .refused r ↔ s.cfg.wf = false ∧ r = .badConfig := by
  cases hw : s.cfg.wf
  · simp [step, checkedStep, hw, eq_comm]
  · simp [step, checkedStep, hw, stepChosen_ne_refused]

end Refusals

/-- Settles O15: no chosen step is refused, so BAD_CONFIG comes from the configuration check and from nothing
else. -/
theorem badConfigurationAlwaysRefused : Obligations.BadConfigurationAlwaysRefused := by
  intro s
  simp [step_refused]

end Sys2Proof.Machine
end

section
/-! SUPPORT. What each part of the configuration check says in the words of 00_scope.md R7, one lemma per
constraint. -/

namespace Sys2Proof

theorem Command.mem_all (x : Command) : x ∈ Command.all := by
  cases x <;> decide

/-- The one-hot masks are the powers of two below `2 ^ 8`. -/
theorem mem_oneHotMasks {m : Byte} : m ∈ oneHotMasks ↔ ∃ i, i < 8 ∧ m = BitVec.twoPow 8 i := by
  have h : oneHotMasks = (List.range 8).map (BitVec.twoPow 8) := by decide
  simp [h, eq_comm]

namespace Config

variable {c : Config}

theorem capacityOk_iff : c.capacityOk = true ↔ 2 ≤ c.N ∧ c.N ≤ 256 := decide_eq_true_iff

theorem groupsOk_iff : c.groupsOk = true ↔ 1 ≤ c.G ∧ c.G ≤ 16 ∧ c.W = 8 ∧ c.bind.length = c.G :=
  decide_eq_true_iff

theorem masksOk_iff :
    c.masksOk = true ↔ ∀ bs ∈ c.bind, ∀ x ∈ bs, ∃ i, i < 8 ∧ x.mask = BitVec.twoPow 8 i := by
  simp only [masksOk, List.all_eq_true, decide_eq_true_eq, mem_oneHotMasks]

theorem distinctOk_iff :
    c.distinctOk = true ↔ ∀ bs ∈ c.bind, bs.Pairwise fun x y => x.mask ≠ y.mask := by
  simp only [distinctOk, List.all_eq_true, decide_eq_true_eq, List.Nodup, List.pairwise_map]

/-- How often a command is bound is how many bindings have it. -/
theorem count_boundCommands (cmd : Command) :
    c.boundCommands.count cmd = (c.bind.flatten.filter fun x => x.cmd = cmd).length := by
  rw [boundCommands, List.count, List.countP_map, ← List.countP_eq_length_filter]
  exact List.countP_congr (by simp)

/-- A command is bound nowhere when no binding has it. -/
theorem count_boundCommands_eq_zero {cmd : Command} :
    c.boundCommands.count cmd = 0 ↔ ∀ x ∈ c.bind.flatten, x.cmd ≠ cmd := by
  simp only [boundCommands, List.count_eq_zero, List.mem_map, not_exists, not_and, ne_eq]

/-- R7 (e) in two halves: the commands a pin generates, and HEARTBEAT, which no pin generates. -/
theorem commandsOk_iff :
    c.commandsOk = true ↔
      (∀ cmd : Command, cmd ≠ .heartbeat → (c.bind.flatten.filter fun x => x.cmd = cmd).length = 1) ∧
      (∀ x ∈ c.bind.flatten, x.cmd ≠ .heartbeat) := by
  rw [← count_boundCommands_eq_zero]
  simp only [← count_boundCommands, commandsOk, List.all_eq_true, decide_eq_true_eq, Command.mem_all,
    true_implies]
  constructor
  · intro h
    exact ⟨fun cmd hne => by simpa [hne] using h cmd, by simpa using h .heartbeat⟩
  · rintro ⟨hpin, hbeat⟩ cmd
    by_cases hc : cmd = .heartbeat
    · simpa [hc] using hbeat
    · simpa [hc] using hpin cmd hc

theorem thresholdOk_iff : c.thresholdOk = true ↔ 1 ≤ c.T ∧ c.T ≤ 65535 := decide_eq_true_iff

end Config

/-- Settles O16, constraint by constraint of 00_scope.md R7. -/
theorem configurationCheckIsRule : Obligations.ConfigurationCheckIsRule := by
  intro c
  simp only [Config.wf, Bool.and_eq_true, Config.capacityOk_iff, Config.groupsOk_iff, Config.masksOk_iff,
    Config.distinctOk_iff, Config.commandsOk_iff, Config.thresholdOk_iff, and_assoc]

end Sys2Proof
end

section
/-! SUPPORT. The composite updates field by field: what publishing a byte, ending a P-KICK, accepting an operation
and RST do to each register, and what a moved-on schedule leaves. -/

namespace Sys2Proof.Machine

variable (s : State) (p : Producer)

/-! ## Accepting an operation's transactions -/

@[simp] theorem State.snap_give (ts : List (List Byte)) (g : Nat) : (s.give p ts).snap g = s.snap g :=
  State.snap_setSeq ..

@[simp] theorem State.cur_give (ts : List (List Byte)) (g : Nat) : (s.give p ts).cur g = s.cur g :=
  State.cur_setSeq ..

variable {p} in
theorem State.seq_give_same (ts : List (List Byte)) (hlen : s.mon.length = s.cfg.G) (hp : p ∈ s.producers) :
    (s.give p ts).seq p = ⟨ts, s.kickp p⟩ :=
  State.seq_setSeq_same _ _ hlen hp

theorem State.seq_give_other {r : Producer} (ts : List (List Byte)) (h : r ≠ p) : (s.give p ts).seq r = s.seq r :=
  State.seq_setSeq_other _ _ h

theorem State.snap_setCur (g : Nat) (v : Byte) (k : Nat) : (s.setCur g v).snap k = s.snap k := by
  by_cases h : k = g
  · subst h
    by_cases hk : k < s.mon.length
    · simp [State.snap, State.setCur, State.monitor_updMon_same s _ hk]
    · simp [State.snap, State.setCur, State.monitor, State.updMon, hk]
  · simp [State.snap, State.setCur, State.monitor_updMon_other s _ h]

@[simp] theorem State.cur_complete (g k : Nat) : (s.complete g).cur k = s.cur k := by
  by_cases h : k = g
  · subst h
    by_cases hk : k < s.mon.length
    · simp [State.cur, State.complete, State.monitor_updMon_same s _ hk]
    · simp [State.cur, State.complete, State.monitor, State.updMon, hk]
  · simp [State.cur, State.complete, State.monitor_updMon_other s _ h]

@[simp] theorem State.seq_setOwner (o : Option Producer) (r : Producer) : (s.setOwner o).seq r = s.seq r := by
  cases r <;> rfl

@[simp] theorem State.snap_setOwner (o : Option Producer) (g : Nat) : (s.setOwner o).snap g = s.snap g := rfl

@[simp] theorem State.cur_setOwner (o : Option Producer) (g : Nat) : (s.setOwner o).cur g = s.cur g := rfl

/-! ## `State.publish` -/

section Publish

variable (bs : List Byte) (ts : List (List Byte))

@[simp] theorem State.publish_cfg : (s.publish p bs ts).cfg = s.cfg := by simp [State.publish]
@[simp] theorem State.publish_buf : (s.publish p bs ts).buf = s.buf := by simp [State.publish]
@[simp] theorem State.publish_head : (s.publish p bs ts).head = s.nextIndex s.head := by simp [State.publish]
@[simp] theorem State.publish_tail : (s.publish p bs ts).tail = s.tail := by simp [State.publish]
@[simp] theorem State.publish_sending : (s.publish p bs ts).sending = s.sending := by simp [State.publish]
@[simp] theorem State.publish_owner : (s.publish p bs ts).owner = some p := by simp [State.publish]
@[simp] theorem State.publish_hb : (s.publish p bs ts).hb = s.hb := by simp [State.publish]
@[simp] theorem State.publish_faults : (s.publish p bs ts).faults = s.faults := by simp [State.publish]
@[simp] theorem State.publish_wire : (s.publish p bs ts).wire = s.wire := by simp [State.publish]
@[simp] theorem State.publish_refusals : (s.publish p bs ts).refusals = s.refusals := by simp [State.publish]
@[simp] theorem State.length_mon_publish : (s.publish p bs ts).mon.length = s.mon.length := by simp [State.publish]

@[simp] theorem State.snap_publish (g : Nat) : (s.publish p bs ts).snap g = s.snap g := by
  rw [State.publish, State.snap_setSeq]
  rfl

@[simp] theorem State.cur_publish (g : Nat) : (s.publish p bs ts).cur g = s.cur g := by
  rw [State.publish, State.cur_setSeq]
  rfl

variable {p} in
theorem State.seq_publish_same (hlen : s.mon.length = s.cfg.G) (hp : p ∈ s.producers) :
    (s.publish p bs ts).seq p = ⟨bs :: ts, true⟩ :=
  State.seq_setSeq_same _ _ hlen hp

variable {p} in
theorem State.seq_publish_other {r : Producer} (h : r ≠ p) : (s.publish p bs ts).seq r = s.seq r := by
  rw [State.publish, State.seq_setSeq_other _ _ h]
  cases r <;> rfl

end Publish

/-! ## `State.completeIfLast` and `State.endKick` -/

/-- The end of an invocation writes at most a snapshot. -/
theorem State.completeIfLast_cases (ts : List (List Byte)) :
    (∃ g, p = .monitor g ∧ ts = [] ∧ s.completeIfLast p ts = s.complete g) ∨
      ((∀ g, p = .monitor g → ts ≠ []) ∧ s.completeIfLast p ts = s) := by
  cases p with
  | main => exact .inr ⟨by simp, rfl⟩
  | monitor g =>
    by_cases h : ts = []
    · exact .inl ⟨g, rfl, h, by simp [State.completeIfLast, h]⟩
    · exact .inr ⟨by simp [h], by simp [State.completeIfLast, h]⟩

@[simp] theorem State.seq_completeIfLast (ts : List (List Byte)) (r : Producer) :
    (s.completeIfLast p ts).seq r = s.seq r := by
  obtain ⟨g, -, -, h⟩ | ⟨-, h⟩ := s.completeIfLast_cases p ts <;> simp [h]

@[simp] theorem State.cur_completeIfLast (ts : List (List Byte)) (g : Nat) :
    (s.completeIfLast p ts).cur g = s.cur g := by
  obtain ⟨k, -, -, h⟩ | ⟨-, h⟩ := s.completeIfLast_cases p ts <;> simp [h]

@[simp] theorem State.completeIfLast_owner (ts : List (List Byte)) :
    (s.completeIfLast p ts).owner = s.owner := by
  obtain ⟨k, -, -, h⟩ | ⟨-, h⟩ := s.completeIfLast_cases p ts <;> simp [h]

/-- Replacing a sequencer writes `main` or a monitor. -/
theorem State.setSeq_writes (q : Sequencer) :
    ∃ m l, l.length = s.mon.length ∧ s.setSeq p q = { s with main := m, mon := l } := by
  cases p with
  | main => exact ⟨q, s.mon, rfl, rfl⟩
  | monitor g => exact ⟨s.main, _, by simp, rfl⟩

/-- The end of a P-KICK writes sequencers, snapshots and the lock, and nothing else. -/
theorem State.endKick_writes :
    ∃ m l o, l.length = s.mon.length ∧ s.endKick p = { s with main := m, mon := l, owner := o } := by
  obtain ⟨ts, -, he⟩ | ⟨-, he⟩ := s.endKick_cases p
  · obtain ⟨m, l, hl, hs⟩ := s.setSeq_writes p ⟨ts, false⟩
    obtain ⟨g, -, -, hc⟩ | ⟨-, hc⟩ := ((s.setSeq p ⟨ts, false⟩).setOwner none).completeIfLast_cases p ts
    · exact ⟨m, l.modify g _, none, by simp [hl], by rw [he, hc, hs]; rfl⟩
    · exact ⟨m, l, none, hl, by rw [he, hc, hs]; rfl⟩
  · obtain ⟨m, l, hl, hs⟩ := s.setSeq_writes p ⟨s.work p, false⟩
    exact ⟨m, l, s.owner, hl, by rw [he, hs]⟩

section EndKick

@[simp] theorem State.endKick_cfg : (s.endKick p).cfg = s.cfg := by
  obtain ⟨_, _, _, -, h⟩ := s.endKick_writes p
  rw [h]

@[simp] theorem State.endKick_buf : (s.endKick p).buf = s.buf := by
  obtain ⟨_, _, _, -, h⟩ := s.endKick_writes p
  rw [h]

@[simp] theorem State.endKick_head : (s.endKick p).head = s.head := by
  obtain ⟨_, _, _, -, h⟩ := s.endKick_writes p
  rw [h]

@[simp] theorem State.endKick_tail : (s.endKick p).tail = s.tail := by
  obtain ⟨_, _, _, -, h⟩ := s.endKick_writes p
  rw [h]

@[simp] theorem State.endKick_sending : (s.endKick p).sending = s.sending := by
  obtain ⟨_, _, _, -, h⟩ := s.endKick_writes p
  rw [h]

@[simp] theorem State.endKick_hb : (s.endKick p).hb = s.hb := by
  obtain ⟨_, _, _, -, h⟩ := s.endKick_writes p
  rw [h]

@[simp] theorem State.endKick_faults : (s.endKick p).faults = s.faults := by
  obtain ⟨_, _, _, -, h⟩ := s.endKick_writes p
  rw [h]

@[simp] theorem State.endKick_wire : (s.endKick p).wire = s.wire := by
  obtain ⟨_, _, _, -, h⟩ := s.endKick_writes p
  rw [h]

@[simp] theorem State.endKick_refusals : (s.endKick p).refusals = s.refusals := by
  obtain ⟨_, _, _, -, h⟩ := s.endKick_writes p
  rw [h]

@[simp] theorem State.length_mon_endKick : (s.endKick p).mon.length = s.mon.length := by
  obtain ⟨_, _, _, hl, h⟩ := s.endKick_writes p
  rw [h, hl]

@[simp] theorem State.cur_endKick (g : Nat) : (s.endKick p).cur g = s.cur g := by
  obtain ⟨ts, -, h⟩ | ⟨-, h⟩ := s.endKick_cases p <;> simp [h]

variable {p}

theorem State.seq_endKick_other {r : Producer} (hr : r ≠ p) : (s.endKick p).seq r = s.seq r := by
  obtain ⟨ts, -, h⟩ | ⟨-, h⟩ := s.endKick_cases p <;> simp [h, State.seq_setSeq_other _ _ hr]

/-- The end of a transaction, where the lock is released, or the middle of one, where it is kept. -/
theorem State.endKick_same (hlen : s.mon.length = s.cfg.G) (hp : p ∈ s.producers) :
    (∃ ts, s.work p = [] :: ts ∧ (s.endKick p).seq p = ⟨ts, false⟩ ∧ (s.endKick p).owner = none) ∨
      ((∀ ts, s.work p ≠ [] :: ts) ∧ (s.endKick p).seq p = ⟨s.work p, false⟩ ∧ (s.endKick p).owner = s.owner) := by
  obtain ⟨ts, hw, h⟩ | ⟨hw, h⟩ := s.endKick_cases p
  · exact .inl ⟨ts, hw, by simp [h, State.seq_setSeq_same s _ hlen hp], by simp [h]⟩
  · exact .inr ⟨hw, by simp [h, State.seq_setSeq_same s _ hlen hp], by simp [h]⟩

/-- The lock is kept or released. -/
theorem State.endKick_owner : (s.endKick p).owner = s.owner ∨ (s.endKick p).owner = none := by
  obtain ⟨ts, -, h⟩ | ⟨-, h⟩ := s.endKick_cases p <;> simp [h]

/-- A P-KICK writes no snapshot but that of a monitor whose last transaction it ends. -/
theorem State.snap_endKick_of_not_last {g : Nat} (hn : ¬ (p = .monitor g ∧ s.work p = [[]])) :
    (s.endKick p).snap g = s.snap g := by
  obtain ⟨ts, hw, h⟩ | ⟨-, h⟩ := s.endKick_cases p
  · obtain ⟨k, hk, hts, hc⟩ | ⟨-, hc⟩ := ((s.setSeq p ⟨ts, false⟩).setOwner none).completeIfLast_cases p ts
    · have hne : g ≠ k := by
        rintro rfl
        exact hn ⟨hk, by rw [hw, hts]⟩
      simp [h, hc, State.snap_complete_other _ hne]
    · simp [h, hc]
  · simp [h]

/-- The P-KICK of an invocation's last transaction completes it. -/
theorem State.snap_endKick_of_last {g : Nat} (hg : g < s.mon.length) (hw : s.work (.monitor g) = [[]]) :
    (s.endKick (.monitor g)).snap g = s.cur g := by
  simp [State.endKick, hw, State.completeIfLast, State.snap_complete_same, hg]

end EndKick

/-! ## RST and the schedule -/

/-- After RST every producer is idle. -/
@[simp] theorem State.seq_afterRst (r : Producer) : s.afterRst.seq r = Sequencer.idle := by
  cases r with
  | main => rfl
  | monitor g =>
    by_cases h : g < s.cfg.G <;>
      simp [State.seq, State.monitor, State.afterRst, State.resetMonitor, Monitor.absent, h]

/-- RST takes the seed of every group the block has. -/
theorem State.snap_afterRst {g : Nat} (h : g < s.cfg.G) : s.afterRst.snap g = s.seedFor g := by
  simp [State.snap, State.monitor, State.afterRst, State.resetMonitor, h]

@[simp] theorem State.length_mon_afterRst : s.afterRst.mon.length = s.cfg.G := by
  simp [State.afterRst]

end Sys2Proof.Machine
end

section
/-! SUPPORT. The ring's arithmetic (10_state.md R27, 40_ring_buffer.md R107, R108): the indices wrap at `N`, `count`
is their distance, and the buffered slots grow at the head and shrink at the tail. -/

namespace Sys2Proof.Machine

variable {s t : State}

/-- `(i + 1) mod N` without the division: the next slot, or slot 0 after the last one. -/
theorem State.nextIndex_cases {i : Nat} (h : i < s.cfg.N) :
    (i + 1 < s.cfg.N ∧ s.nextIndex i = i + 1) ∨ (i + 1 = s.cfg.N ∧ s.nextIndex i = 0) := by
  obtain h1 | h1 : i + 1 < s.cfg.N ∨ i + 1 = s.cfg.N := by omega
  · exact .inl ⟨h1, Nat.mod_eq_of_lt h1⟩
  · exact .inr ⟨h1, by rw [State.nextIndex, h1, Nat.mod_self]⟩

theorem State.nextIndex_lt {i : Nat} (h : i < s.cfg.N) : s.nextIndex i < s.cfg.N :=
  Nat.mod_lt _ (by omega)

theorem State.empty_iff : s.empty = true ↔ s.head = s.tail := decide_eq_true_iff

theorem State.empty_eq_false_iff : s.empty = false ↔ s.head ≠ s.tail := decide_eq_false_iff_not

theorem State.full_iff : s.full = true ↔ s.nextIndex s.head = s.tail := decide_eq_true_iff

theorem State.full_eq_false_iff : s.full = false ↔ s.nextIndex s.head ≠ s.tail := decide_eq_false_iff_not

/-- `count` without the division: the way from `tail` to `head`, wrapped or not. -/
theorem State.count_cases (hh : s.head < s.cfg.N) (ht : s.tail < s.cfg.N) :
    (s.tail ≤ s.head ∧ s.count = s.head - s.tail) ∨
      (s.head < s.tail ∧ s.count = s.head + s.cfg.N - s.tail) := by
  unfold State.count
  rw [Nat.mod_eq_of_lt ht]
  by_cases h : s.tail ≤ s.head
  · refine .inl ⟨h, ?_⟩
    rw [show s.head + (s.cfg.N - s.tail) = s.head - s.tail + s.cfg.N by omega, Nat.add_mod_right]
    exact Nat.mod_eq_of_lt (by omega)
  · refine .inr ⟨by omega, ?_⟩
    rw [Nat.mod_eq_of_lt (by omega)]
    omega

/-- The slot `count` places after `tail` is the one at `head`. -/
theorem State.tail_add_count (hh : s.head < s.cfg.N) (ht : s.tail < s.cfg.N) :
    (s.tail + s.count) % s.cfg.N = s.head := by
  obtain ⟨h, hc⟩ | ⟨h, hc⟩ := State.count_cases hh ht
  · rw [hc, Nat.add_sub_cancel' h, Nat.mod_eq_of_lt hh]
  · rw [hc, show s.tail + (s.head + s.cfg.N - s.tail) = s.head + s.cfg.N by omega, Nat.add_mod_right,
      Nat.mod_eq_of_lt hh]

/-- Advancing `head` buffers the slot at the old head, after all the others. -/
theorem State.pendingSlots_of_head_next (hh : s.head < s.cfg.N) (ht : s.tail < s.cfg.N) (hf : s.full = false)
    (hcfg : t.cfg = s.cfg) (hhead : t.head = s.nextIndex s.head) (htail : t.tail = s.tail) :
    t.pendingSlots = s.pendingSlots ++ [s.head] := by
  have hcount : t.count = s.count + 1 := by
    have hne := State.full_eq_false_iff.1 hf
    have hnext := State.nextIndex_cases hh
    have hs := State.count_cases hh ht
    have ht' := State.count_cases (s := t) (by rw [hcfg, hhead]; exact State.nextIndex_lt hh)
      (by rw [hcfg, htail]; exact ht)
    rw [hcfg, hhead, htail] at ht'
    omega
  simp [State.pendingSlots, hcount, hcfg, htail, List.range_succ, State.tail_add_count hh ht]

/-- Advancing `tail` takes the first buffered slot, the one at the old tail. -/
theorem State.pendingSlots_of_tail_next (hh : s.head < s.cfg.N) (ht : s.tail < s.cfg.N) (he : s.empty = false)
    (hcfg : t.cfg = s.cfg) (hhead : t.head = s.head) (htail : t.tail = s.nextIndex s.tail) :
    s.pendingSlots = s.tail :: t.pendingSlots := by
  have hcount : s.count = t.count + 1 := by
    have hne := State.empty_eq_false_iff.1 he
    have hnext := State.nextIndex_cases ht
    have hs := State.count_cases hh ht
    have ht' := State.count_cases (s := t) (by rw [hcfg, hhead]; exact hh)
      (by rw [hcfg, htail]; exact State.nextIndex_lt ht)
    rw [hcfg, hhead, htail] at ht'
    omega
  have hshift (k : Nat) : (s.tail + (k + 1)) % s.cfg.N = (s.nextIndex s.tail + k) % s.cfg.N := by
    rw [State.nextIndex, Nat.mod_add_mod, Nat.add_right_comm, Nat.add_assoc]
  simp [State.pendingSlots, hcount, hcfg, htail, List.range_succ_eq_map, Nat.mod_eq_of_lt ht, hshift]

end Sys2Proof.Machine
end

section
/-! SUPPORT. The bounds a well-formed configuration gives (00_scope.md R7 (a), (b), (f)). -/

namespace Sys2Proof

theorem Config.bounds_of_wf {c : Config} (h : c.wf = true) : 2 ≤ c.N ∧ c.N ≤ 256 ∧ c.G ≤ 16 ∧ 1 ≤ c.T := by
  simp only [Config.wf, Bool.and_eq_true, Config.capacityOk_iff, Config.groupsOk_iff, Config.thresholdOk_iff] at h
  omega

end Sys2Proof
end

section
/-! SUPPORT. The invariant under each operation a step is made of. A part that speaks only of fields an operation does
not write is the same statement after it, and is handed on as it is. -/

namespace Sys2Proof.Machine

variable {s t : State} {p : Producer}

/-! ## Producers -/

/-- A producer the block does not have reads as idle. -/
theorem State.mem_producers_of_seq_ne_idle (hlen : s.mon.length = s.cfg.G) (h : s.seq p ≠ Sequencer.idle) :
    p ∈ s.producers := by
  cases p with
  | main => simp [State.producers]
  | monitor g =>
    by_contra hg
    have hge : s.mon.length ≤ g := by simpa [State.producers, hlen] using hg
    exact h (by simp [State.seq, State.monitor, Monitor.absent, hge])

theorem State.busy_eq_false_iff : s.busy p = false ↔ s.work p = [] ∧ s.kickp p = false := by
  simp [State.busy]

theorem Sequencer.ok_of_work {ts : List (List Byte)} (h : [] ∉ ts) : (⟨ts, false⟩ : Sequencer).ok = true := by
  simpa [Sequencer.ok] using h

theorem Sequencer.nil_notMem_work {q : Sequencer} (hq : q.ok = true) (hk : q.kick = false) : [] ∉ q.work := by
  obtain ⟨w, k⟩ := q
  cases hk
  simpa [Sequencer.ok] using hq

/-- A producer about to kick has a transaction, and those after it are non-empty. -/
theorem Sequencer.work_of_kick {q : Sequencer} (hq : q.ok = true) (hk : q.kick = true) :
    ∃ w ts, q.work = w :: ts ∧ [] ∉ ts := by
  obtain ⟨w, k⟩ := q
  cases hk
  cases w with
  | nil => simp [Sequencer.ok] at hq
  | cons w ts => exact ⟨w, ts, rfl, by simpa [Sequencer.ok] using hq⟩

section OneProducer

/-! What the invariant needs when only `p` moves on. -/

variable (hcfg : t.cfg = s.cfg) (hother : ∀ r, r ≠ p → t.seq r = s.seq r)

include hcfg hother

theorem State.WorkOk.of_seq (h : s.WorkOk) (hp : (t.seq p).ok = true) : t.WorkOk := by
  intro r hr
  by_cases hrp : r = p
  · exact hrp ▸ hp
  · rw [hother r hrp]
    exact h r (by rwa [State.producers, hcfg] at hr)

/-- The lock discipline, where no other producer gains or loses the lock. -/
theorem State.LockOk.of_seq (h : s.LockOk) (hp : p ∈ s.producers)
    (howner : ∀ r, r ≠ p → (t.owner = some r ↔ s.owner = some r))
    (hkick : t.kickp p = true → t.owner = some p) (hwork : t.owner = some p → t.work p ≠ []) : t.LockOk := by
  obtain ⟨hkicks, howns⟩ := h
  have hprod : t.producers = s.producers := by rw [State.producers, hcfg, State.producers]
  constructor
  · intro r hr hk
    by_cases hrp : r = p
    · subst hrp
      exact hkick hk
    · rw [State.kickp, hother r hrp] at hk
      exact (howner r hrp).2 (hkicks r (hprod ▸ hr) hk)
  · intro r hr
    rw [Option.mem_toList] at hr
    rw [hprod]
    by_cases hrp : r = p
    · subst hrp
      exact ⟨hp, hwork hr⟩
    · rw [State.work, hother r hrp]
      exact howns r (Option.mem_toList.2 ((howner r hrp).1 hr))

end OneProducer

/-! ## Updates that write no sequencer, index or lock -/

/-- The environment's side is no part of the invariant. -/
theorem State.Inv.of_environment (h : s.Inv) (is : List Input) (vs : List Byte) (cs : List Choice) (d : Nat) :
    State.Inv { s with inbox := is, seed := vs, plan := cs, draws := d } := h

theorem nodup_addOnce {α : Type} [DecidableEq α] {x : α} {l : List α} (h : l.Nodup) : (addOnce x l).Nodup := by
  unfold addOnce
  split
  · exact h
  · next hx => simpa using h.concat hx

theorem State.Inv.mark (h : s.Inv) (r : RefusalKind) : (s.mark r).Inv := by
  obtain ⟨hsizes, hring, hlock, hstart, hwork, hbeat, hfaults, hmarks⟩ := h
  exact ⟨hsizes, hring, hlock, hstart, hwork, hbeat, hfaults, nodup_addOnce hmarks⟩

theorem State.Inv.recordFault (h : s.Inv) (k : FaultKind) (w : OpWord) : (s.recordFault k w).Inv := by
  obtain ⟨hsizes, hring, hlock, hstart, hwork, hbeat, hfaults, hmarks⟩ := h
  exact ⟨hsizes, hring, hlock, hstart, hwork, hbeat, nodup_addOnce hfaults, hmarks⟩

theorem State.Inv.setHeartbeat (h : s.Inv) {c : BitVec 16} (hc : c.toNat < s.cfg.T) : State.Inv { s with hb := c } := by
  obtain ⟨hsizes, hring, hlock, hstart, hwork, -, hrecords⟩ := h
  exact ⟨hsizes, hring, hlock, hstart, hwork, hc, hrecords⟩

/-- The registers `snap` and `cur` are no part of the invariant. -/
theorem State.Inv.updMon (h : s.Inv) (g : Nat) {f : Monitor → Monitor} (hf : ∀ m, (f m).seq = m.seq) :
    (s.updMon g f).Inv := by
  obtain ⟨⟨hwf, hlen⟩, hring, hlock, hstart, hwork, hbeat, hrecords⟩ := h
  have hseq : (s.updMon g f).seq = s.seq := funext (State.seq_updMon s g f hf)
  refine ⟨⟨hwf, by simpa using hlen⟩, hring, ?_, ?_, ?_, hbeat, hrecords⟩
  · unfold State.LockOk State.kickp State.work
    rw [hseq]
    exact hlock
  · unfold State.StartOk State.kickp
    rw [hseq]
    exact hstart
  · unfold State.WorkOk
    rw [hseq]
    exact hwork

/-! ## The consumer -/

/-- A hand-off takes a buffered byte and leaves a byte in flight. -/
theorem State.Inv.takeNext (h : s.Inv) (he : s.empty = false) (b : Byte) : (s.takeNext b).Inv := by
  obtain ⟨hsizes, ⟨hh, ht, hbuf, hslots, hpending⟩, hlock, -, hwork, hbeat, hrecords⟩ := h
  have hslice : s.pendingSlots = s.tail :: (s.takeNext b).pendingSlots :=
    State.pendingSlots_of_tail_next hh ht he rfl rfl rfl
  refine ⟨hsizes, ⟨hh, State.nextIndex_lt ht, hbuf, hslots, fun i hi => ?_⟩, hlock, ?_, hwork, hbeat, hrecords⟩
  · exact hpending i (by simp [hslice, hi])
  · intro hs
    simp at hs

theorem State.Inv.stopSending (h : s.Inv) (he : s.empty = true) : State.Inv { s with sending := false } := by
  obtain ⟨hsizes, hring, hlock, -, hwork, hbeat, hrecords⟩ := h
  exact ⟨hsizes, hring, hlock, fun _ hne => absurd (State.empty_iff.1 he) hne, hwork, hbeat, hrecords⟩

/-- After KICK a byte is in flight or nothing is buffered, so no further KICK is owed. -/
theorem State.Inv.kick (h : s.Inv) (hk : kick s = .next t) :
    t.Inv ∧ (t.sending = true ∨ t.empty = true) ∧ t.seq = s.seq ∧ t.owner = s.owner := by
  obtain ⟨-, he, -, rfl⟩ | ⟨hs, rfl⟩ := kick_next hk
  · exact ⟨h.takeNext he _, .inl rfl, rfl, rfl⟩
  · exact ⟨h, hs, rfl, rfl⟩

/-! ## The producers -/

/-- An idle producer accepts transactions: it neither owns the lock nor owes a KICK. -/
theorem State.Inv.give (h : s.Inv) (hp : p ∈ s.producers) (hidle : s.busy p = false) {ts : List (List Byte)}
    (hts : [] ∉ ts) : (s.give p ts).Inv := by
  obtain ⟨⟨hwf, hlen⟩, hring, hlock, hstart, hwork, hbeat, hrecords⟩ := h
  obtain ⟨hw, hk⟩ := State.busy_eq_false_iff.1 hidle
  have hfree : s.owner ≠ some p := fun ho => (hlock.2 p (Option.mem_toList.2 ho)).2 hw
  have hsame : (s.give p ts).seq p = ⟨ts, false⟩ := by rw [State.seq_give_same s _ hlen hp, hk]
  have hother (r : Producer) (hr : r ≠ p) : (s.give p ts).seq r = s.seq r := State.seq_give_other s p ts hr
  refine ⟨⟨by simpa using hwf, by simpa using hlen⟩, ?_, ?_, ?_, ?_, by simpa using hbeat,
    by simpa [State.RecordsOk] using hrecords⟩
  · obtain ⟨m, l, -, e⟩ := s.setSeq_writes p ⟨ts, s.kickp p⟩
    rw [State.give, e]
    exact hring
  · refine State.LockOk.of_seq (s.give_cfg p ts) hother hlock hp (by simp) ?_ ?_
    · simp [State.kickp, hsame]
    · simp [hfree]
  · intro hs hne
    obtain ⟨r, hr, hrk⟩ := hstart (by simpa using hs) (by simpa using hne)
    have hrp : r ≠ p := by
      rintro rfl
      simp [hk] at hrk
    exact ⟨r, by simpa [State.producers] using hr, by rw [State.kickp, hother r hrp]; exact hrk⟩
  · exact State.WorkOk.of_seq (s.give_cfg p ts) hother hwork (by rw [hsame]; exact Sequencer.ok_of_work hts)

/-- P-ENQ writes the slot at `head` and then buffers it. -/
theorem State.RingOk.publish (h : s.RingOk) (hfull : s.full = false) (b : Byte) (bs : List Byte)
    (ts : List (List Byte)) : ((s.setSlot s.head b).publish p bs ts).RingOk := by
  obtain ⟨hh, ht, hbuf, hslots, hpending⟩ := h
  have hslice : ((s.setSlot s.head b).publish p bs ts).pendingSlots = s.pendingSlots ++ [s.head] :=
    State.pendingSlots_of_head_next hh ht hfull (by simp) (by simp [State.nextIndex]) (by simp)
  refine ⟨?_, by simpa using ht, by simpa using Memory.write_wf s.head b hbuf, fun c hc => ?_, fun i hi => ?_⟩
  · simpa [State.nextIndex] using State.nextIndex_lt (s := s) hh
  · obtain rfl | hc := Memory.mem_write (m := s.buf) (by simpa using hc)
    · simpa using hh
    · simpa using hslots c hc
  · rw [State.publish_buf, State.setSlot_buf]
    by_cases hih : i = s.head
    · simp [hih]
    · rw [Memory.read_write_other _ _ hih]
      exact hpending i (by simpa [hslice, hih] using hi)

/-- P-ENQ takes the lock and owes a KICK. -/
theorem State.Inv.enqueue (h : s.Inv) {b : Byte} {bs : List Byte} {ts : List (List Byte)} (hk : s.kickp p = false)
    (hw : s.work p = (b :: bs) :: ts) (hn : s.enqHold p = none) : ((s.setSlot s.head b).publish p bs ts).Inv := by
  obtain ⟨⟨hwf, hlen⟩, hring, hlock, -, hwork, hbeat, hrecords⟩ := h
  obtain ⟨hfree, hfull⟩ := State.enqHold_none.1 hn
  have hp : p ∈ s.producers := State.mem_producers_of_seq_ne_idle hlen fun e => by
    simp [State.work, e, Sequencer.idle] at hw
  have hts : [] ∉ ts := by
    have hnil : [] ∉ s.work p := Sequencer.nil_notMem_work (hwork p hp) hk
    simpa [hw] using hnil
  have hcfg : ((s.setSlot s.head b).publish p bs ts).cfg = s.cfg := by simp
  have hsame : ((s.setSlot s.head b).publish p bs ts).seq p = ⟨bs :: ts, true⟩ :=
    State.seq_publish_same _ _ _ hlen hp
  have hother (r : Producer) (hr : r ≠ p) : ((s.setSlot s.head b).publish p bs ts).seq r = s.seq r := by
    rw [State.seq_publish_other _ _ _ hr]
    cases r <;> rfl
  refine ⟨⟨by simpa using hwf, by simpa using hlen⟩, hring.publish hfull b bs ts, ?_, fun _ _ => ⟨p, ?_, ?_⟩, ?_,
    by simpa using hbeat, by simpa [State.RecordsOk] using hrecords⟩
  · refine State.LockOk.of_seq hcfg hother hlock hp (fun r hr => ?_) (by simp) (by simp [State.work, hsame])
    obtain ho | ho := hfree <;> simp [ho, hr.symm]
  · simpa [State.producers] using hp
  · simp [State.kickp, hsame]
  · exact State.WorkOk.of_seq hcfg hother hwork (by rw [hsame]; simpa [Sequencer.ok] using hts)

/-- P-KICK: once its KICK is done, `p` owes none, and releases the lock at the end of its transaction. -/
theorem State.Inv.endKick (h : s.Inv) (hk : s.kickp p = true) (hstarted : s.sending = true ∨ s.empty = true) :
    (s.endKick p).Inv := by
  obtain ⟨⟨hwf, hlen⟩, hring, hlock, hstart, hwork, hbeat, hrecords⟩ := h
  have hp : p ∈ s.producers := State.mem_producers_of_seq_ne_idle hlen fun e => by
    simp [State.kickp, e, Sequencer.idle] at hk
  have howner : s.owner = some p := hlock.1 p hp hk
  obtain ⟨w, us, hwus, hus⟩ := Sequencer.work_of_kick (hwork p hp) hk
  have hcfg : (s.endKick p).cfg = s.cfg := by simp
  have hother (r : Producer) (hr : r ≠ p) : (s.endKick p).seq r = s.seq r := s.seq_endKick_other hr
  refine ⟨⟨by simpa using hwf, by simpa using hlen⟩, ?_, ?_, ?_, ?_, by simpa using hbeat,
    by simpa [State.RecordsOk] using hrecords⟩
  · obtain ⟨m, l, o, -, e⟩ := s.endKick_writes p
    rw [e]
    exact hring
  · refine State.LockOk.of_seq hcfg hother hlock hp (fun r hr => ?_) ?_ ?_
    · obtain ho | ho := s.endKick_owner (p := p) <;> simp [ho, howner, hr.symm]
    · obtain ⟨ts, -, hs, -⟩ | ⟨-, hs, -⟩ := s.endKick_same hlen hp <;> simp [State.kickp, hs]
    · obtain ⟨ts, -, -, ho⟩ | ⟨-, hs, -⟩ := s.endKick_same hlen hp
      · simp [ho]
      · rw [State.work, hs, State.work, hwus]
        simp
  · intro hs hne
    obtain hsent | he := hstarted
    · simp [hsent] at hs
    · simp [State.empty_iff.1 he] at hne
  · refine State.WorkOk.of_seq hcfg hother hwork ?_
    obtain ⟨ts, hwts, hs, -⟩ | ⟨hmid, hs, -⟩ := s.endKick_same hlen hp
    · obtain ⟨-, rfl⟩ := List.cons.inj (hwus.symm.trans hwts)
      rw [hs]
      exact Sequencer.ok_of_work hus
    · have hne : w ≠ [] := fun e => hmid us (e ▸ hwus)
      rw [hs, State.work, hwus]
      exact Sequencer.ok_of_work (by simp [hne.symm, hus])

theorem State.Inv.producerStep (h : s.Inv) (hp : producerStep p s = .next t) : t.Inv := by
  obtain ⟨hk, u, hu, rfl⟩ | ⟨hk, b, bs, ts, hw, hn, -, rfl⟩ | rfl := producerStep_next hp
  · obtain ⟨hinv, hstarted, hseq, -⟩ := h.kick hu
    exact hinv.endKick (by rw [State.kickp, hseq]; exact hk) hstarted
  · exact h.enqueue hk hw hn
  · exact h

end Sys2Proof.Machine
end

section
/-! SUPPORT. What running an operation can do, one constructor per outcome of 60_exceptions.md R206, and from it who
writes each field (10_state.md R37) and that the invariant is kept. -/

namespace Sys2Proof.Machine

/-- `Ran s i t`: the operation `i`, run in `s`, answers `t`. -/
inductive Ran (s : State) : Instr → State → Prop
  | refused {i : Instr} (r : RefusalKind) (hi : i ≠ .rst) : Ran s i (s.mark r)
  | held {i : Instr} : Ran s i s
  | rst : Ran s .rst s.afterRst
  | enq (b : Byte) (hidle : s.busy .main = false) : Ran s (.enq b) (s.give .main [[b]])
  | pchgSilent (g : BitVec 4) (v : Byte) (hg : g.toNat < s.cfg.G) (hidle : s.busy (.monitor g.toNat) = false)
      (hev : s.eventsAt g.toNat v = []) :
      Ran s (.pchg g v) (((s.setCur g.toNat v).give (.monitor g.toNat) []).complete g.toNat)
  | pchgEvents (g : BitVec 4) (v : Byte) (hg : g.toNat < s.cfg.G) (hidle : s.busy (.monitor g.toNat) = false)
      (hev : s.eventsAt g.toNat v ≠ []) :
      Ran s (.pchg g v) ((s.setCur g.toNat v).give (.monitor g.toNat) ((s.eventsAt g.toNat v).map frame))
  | tickBeats (hidle : s.busy .main = false) (hT : s.cfg.T ≤ s.hb.toNat + 1) :
      Ran s .tick (State.give { s with hb := 0 } .main [frame .heartbeat])
  | tickCounts (hidle : s.busy .main = false) (hT : s.hb.toNat + 1 < s.cfg.T) :
      Ran s .tick { s with hb := BitVec.ofNat 16 (s.hb.toNat + 1) }
  | spurious (hs : s.sending = false) : Ran s .txc (s.recordFault .spuriousTxc 0x5000)
  | handsOff (he : s.empty = false) : Ran s .txc (s.takeNext (s.slotByte s.tail))
  | stops (he : s.empty = true) : Ran s .txc { s with sending := false }

section Operations

variable {s t : State} {i : Instr}

theorem exec_ran (h : exec i s = .next t) : Ran s i t := by
  cases i with
  | rst =>
    obtain rfl : s.afterRst = t := by simpa [exec, execRst] using h
    exact .rst
  | enq b =>
    change execEnq b s = _ at h
    obtain ⟨-, e⟩ | ⟨-, -, e⟩ | ⟨-, hidle, e⟩ := execEnq_cases b s <;> cases e.symm.trans h
    · exact .refused _ (by simp)
    · exact .held
    · exact .enq b hidle
  | pchg g v =>
    change execPchg g v s = _ at h
    obtain ⟨-, e⟩ | ⟨-, -, e⟩ | ⟨-, -, -, e⟩ | ⟨hg, -, hidle, e⟩ := execPchg_cases g v s <;> cases e.symm.trans h
    · exact .refused _ (by simp)
    · exact .refused _ (by simp)
    · exact .held
    · obtain ⟨hev, e⟩ | ⟨hev, e⟩ := s.startInvocation_cases g.toNat v <;> rw [e]
      · exact .pchgSilent g v hg hidle hev
      · exact .pchgEvents g v hg hidle hev
  | tick =>
    change execTick s = _ at h
    obtain ⟨-, e⟩ | ⟨-, -, e⟩ | ⟨-, hidle, e⟩ := execTick_cases s <;> cases e.symm.trans h
    · exact .refused _ (by simp)
    · exact .held
    · obtain ⟨hT, e⟩ | ⟨hT, e⟩ := s.countTick_cases <;> rw [e]
      · exact .tickBeats hidle hT
      · exact .tickCounts hidle hT
  | txc =>
    obtain ⟨-, rfl⟩ | ⟨-, hs, rfl⟩ | ⟨-, -, he, -, rfl⟩ | ⟨-, -, he, rfl⟩ := execTxc_next h
    · exact .refused _ (by simp)
    · exact .spurious hs
    · exact .handsOff he
    · exact .stops he

/-! ## The invariant -/

theorem State.Inv.afterRst (h : s.Inv) : s.afterRst.Inv := by
  obtain ⟨⟨hwf, -⟩, -, -, -, -, -, hrecords⟩ := h
  obtain ⟨htwo, -, -, hT⟩ := Config.bounds_of_wf hwf
  have hN : 0 < s.cfg.N := by omega
  have hcount : s.afterRst.count = 0 := by
    have := State.count_cases (s := s.afterRst) hN hN
    simp only [State.afterRst] at this ⊢
    omega
  refine ⟨⟨hwf, s.length_mon_afterRst⟩, ⟨hN, hN, rfl, by simp [State.afterRst], ?_⟩, ⟨?_, ?_⟩, ?_, ?_, hT,
    hrecords⟩
  · simp [State.pendingSlots, hcount]
  · simp [State.kickp, Sequencer.idle]
  · simp [State.afterRst]
  · exact fun _ hne => absurd rfl hne
  · simp [State.WorkOk, Sequencer.idle, Sequencer.ok]

/-- PCHG stores the value read and gives the events' frames to an idle monitor. -/
theorem State.Inv.giveRead (h : s.Inv) {g : Nat} (hg : g < s.cfg.G) (hidle : s.busy (.monitor g) = false) (v : Byte)
    {ts : List (List Byte)} (hts : [] ∉ ts) : ((s.setCur g v).give (.monitor g) ts).Inv := by
  have hcur : (s.setCur g v).Inv := h.updMon g fun _ => rfl
  refine hcur.give (by simpa [State.producers] using hg) ?_ hts
  simpa [State.busy_eq_false_iff, State.work, State.kickp] using hidle

theorem State.Inv.ran (h : s.Inv) (hr : Ran s i t) : t.Inv := by
  cases hr with
  | refused r hi => exact h.mark r
  | held => exact h
  | rst => exact h.afterRst
  | enq b hidle => exact h.give (by simp [State.producers]) hidle (by simp)
  | pchgSilent g v hg hidle => exact (h.giveRead hg hidle v (by simp)).updMon _ fun _ => rfl
  | pchgEvents g v hg hidle => exact h.giveRead hg hidle v (by simp [frame])
  | tickBeats hidle =>
    have ⟨_, _, _, _, _, hbeat, _⟩ := h
    have hzero : State.Inv { s with hb := 0 } := h.setHeartbeat (Nat.zero_lt_of_lt hbeat)
    exact hzero.give (p := .main) (by simp [State.producers]) hidle (by simp [frame])
  | tickCounts _ hT =>
    refine h.setHeartbeat ?_
    rw [BitVec.toNat_ofNat]
    exact (Nat.mod_le _ _).trans_lt hT
  | spurious hs => exact h.recordFault _ _
  | handsOff he => exact h.takeNext he _
  | stops he => exact h.stopSending he

theorem State.Inv.accept (h : s.Inv) {k : Nat} (ha : accept k s = .next t) : t.Inv := by
  have hconsume : (s.consume k).Inv := h
  obtain ⟨-, rfl⟩ | ⟨vs, -, rfl⟩ | ⟨w, -, ⟨r, -, rfl⟩ | ⟨i, -, ⟨-, rfl⟩ | ⟨-, he⟩⟩⟩ := accept_next ha
  · exact h
  · exact h
  · exact hconsume.mark r
  · exact h
  · exact hconsume.ran (exec_ran he)

theorem State.Inv.perform (h : s.Inv) {c : Choice} (hp : perform c s = .next t) : t.Inv := by
  cases c with
  | producer p => exact h.producerStep hp
  | accept k => exact h.accept hp

end Operations

/-- Settles O2: choosing a step moves only the schedule, and each step a producer takes or an operation makes keeps
the invariant. -/
theorem everyStepKeepsInvariant : Obligations.EveryStepKeepsInvariant := by
  intro s t hs h
  obtain ⟨-, ⟨-, rfl⟩ | ⟨c, u, hc, hp⟩⟩ := step_next h
  · exact hs
  · obtain ⟨cs, d, rfl⟩ := State.choose_some hc
    exact (hs.of_environment s.inbox s.seed cs d).perform hp

end Sys2Proof.Machine
end

section
/-! SUPPORT. What one step can do, tied to `nextWrite`, `nextKick` and `runs`: the block waits or moves its inputs, a
producer writes, a producer kicks, or an operation is run. -/

namespace Sys2Proof.Machine

/-- `s` with the schedule and the presented inputs moved on, and the block as it was. -/
def State.movedOn (s : State) (cs : List Choice) (d : Nat) (is : List Input) : State :=
  { s with plan := cs, draws := d, inbox := is }

section MovedOn

variable (s : State) (cs : List Choice) (d : Nat) (is : List Input)

@[simp] theorem State.movedOn_cfg : (s.movedOn cs d is).cfg = s.cfg := rfl
@[simp] theorem State.movedOn_buf : (s.movedOn cs d is).buf = s.buf := rfl
@[simp] theorem State.movedOn_head : (s.movedOn cs d is).head = s.head := rfl
@[simp] theorem State.movedOn_tail : (s.movedOn cs d is).tail = s.tail := rfl
@[simp] theorem State.movedOn_sending : (s.movedOn cs d is).sending = s.sending := rfl
@[simp] theorem State.movedOn_owner : (s.movedOn cs d is).owner = s.owner := rfl
@[simp] theorem State.movedOn_hb : (s.movedOn cs d is).hb = s.hb := rfl
@[simp] theorem State.movedOn_faults : (s.movedOn cs d is).faults = s.faults := rfl
@[simp] theorem State.movedOn_wire : (s.movedOn cs d is).wire = s.wire := rfl
@[simp] theorem State.movedOn_refusals : (s.movedOn cs d is).refusals = s.refusals := rfl
@[simp] theorem State.seq_movedOn : (s.movedOn cs d is).seq = s.seq := by
  funext p
  cases p <;> rfl
@[simp] theorem State.snap_movedOn : (s.movedOn cs d is).snap = s.snap := rfl
@[simp] theorem State.cur_movedOn : (s.movedOn cs d is).cur = s.cur := rfl

end MovedOn

/-- `Taken s t`: what the step from `s` to `t` did. -/
inductive Taken (s t : State) : Prop
  /-- No step of the block: the schedule moves on, and a seed directive or a refused word may be taken. -/
  | rests (hwrite : s.nextWrite = none) (hkick : s.nextKick = none) (hruns : s.runs = none) (cs : List Choice)
      (d : Nat) (is : List Input) (vs : List Byte) (rs : List RefusalKind) (hmarks : s.refusals <+: rs)
      (ht : t = { s with plan := cs, draws := d, inbox := is, seed := vs, refusals := rs })
  /-- P-ENQ of `p`, not held. -/
  | writes (p : Producer) (b : Byte) (bs : List Byte) (ts : List (List Byte))
      (hwrite : s.nextWrite = some (p, b :: bs)) (hkick : s.nextKick = none) (hruns : s.runs = none)
      (cs : List Choice) (d : Nat) (is : List Input) (hk : s.kickp p = false) (hw : s.work p = (b :: bs) :: ts)
      (hfree : s.enqHold p = none) (ht : t = ((s.movedOn cs d is).setSlot s.head b).publish p bs ts)
  /-- P-KICK of `p`. -/
  | kicks (p : Producer) (hwrite : s.nextWrite = none) (hkick : s.nextKick = some p) (hruns : s.runs = none)
      (cs : List Choice) (d : Nat) (is : List Input) (hk : s.kickp p = true) (u : State)
      (hu : kick (s.movedOn cs d is) = .next u) (ht : t = u.endKick p)
  /-- The operation `i` is run. -/
  | runs (i : Instr) (hwrite : s.nextWrite = none) (hkick : s.nextKick = none) (hruns : s.runs = some i)
      (cs : List Choice) (d : Nat) (is : List Input) (haccept : acceptHold i s = none)
      (hexec : exec i (s.movedOn cs d is) = .next t)

/-- A record keeps what it holds when an entry is put in it. -/
theorem prefix_addOnce {α : Type} [DecidableEq α] (x : α) (l : List α) : l <+: addOnce x l := by
  unfold addOnce
  split
  · exact List.prefix_rfl
  · exact List.prefix_append l [x]

section Choosing

variable {s t u : State} {p : Producer} {k : Nat}

theorem State.nextKick_of_choose (h : s.choose = some (.producer p, u)) :
    s.nextKick = if u.kickp p = true then some p else none := by
  simp [State.nextKick, h]

/-- The next step writes exactly when its producer owes no KICK and is not held. -/
theorem State.nextWrite_of_choose (h : s.choose = some (.producer p, u)) {b : Byte} {bs : List Byte}
    {ts : List (List Byte)} (hk : u.kickp p = false) (hw : u.work p = (b :: bs) :: ts) :
    s.nextWrite = if (u.enqHold p).isNone then some (p, b :: bs) else none := by
  simp [State.nextWrite, h, hk, hw]

theorem State.nextWrite_of_choose_kick (h : s.choose = some (.producer p, u)) (hk : u.kickp p = true) :
    s.nextWrite = none := by
  simp [State.nextWrite, h, hk]

/-- A producer with no byte to enqueue writes none. -/
theorem State.nextWrite_of_choose_rest (h : s.choose = some (.producer p, u))
    (hw : ∀ b bs ts, u.work p ≠ (b :: bs) :: ts) : s.nextWrite = none := by
  rw [State.nextWrite, h]
  dsimp only
  split
  · rfl
  · split
    · next b bs ts e => exact absurd e (hw b bs ts)
    · rfl

theorem State.runs_of_choose_producer (h : s.choose = some (.producer p, u)) : s.runs = none := by
  simp [State.runs, h]

theorem State.nextWrite_of_choose_accept (h : s.choose = some (.accept k, u)) : s.nextWrite = none := by
  simp [State.nextWrite, h]

theorem State.nextKick_of_choose_accept (h : s.choose = some (.accept k, u)) : s.nextKick = none := by
  simp [State.nextKick, h]

theorem State.runs_of_choose_nothing (h : s.choose = some (.accept k, u)) (ho : u.operationAt k = none) :
    s.runs = none := by
  simp [State.runs, h, ho]

/-- The operation of an accepted word is run unless it is held. -/
theorem State.runs_of_choose_operation (h : s.choose = some (.accept k, u)) {i : Instr}
    (ho : u.operationAt k = some i) : s.runs = if (acceptHold i u).isNone then some i else none := by
  simp [State.runs, h, ho]

theorem State.operationAt_of_ok {w : OpWord} {i : Instr} (hin : s.inbox[k]? = some (.word w))
    (hd : decode s.cfg.G w = .ok i) : s.operationAt k = some i := by
  rw [State.operationAt, hin]
  dsimp only
  rw [hd]
  rfl

theorem State.operationAt_of_error {w : OpWord} {r : RefusalKind} (hin : s.inbox[k]? = some (.word w))
    (hd : decode s.cfg.G w = .error r) : s.operationAt k = none := by
  rw [State.operationAt, hin]
  dsimp only
  rw [hd]
  rfl

/-- A producer's chosen step: P-KICK, P-ENQ, or a wait. -/
theorem taken_of_producerStep {cs : List Choice} {d : Nat}
    (hc : s.choose = some (.producer p, s.movedOn cs d s.inbox))
    (h : producerStep p (s.movedOn cs d s.inbox) = .next t) : Taken s t := by
  have hruns := State.runs_of_choose_producer hc
  have hkick := State.nextKick_of_choose hc
  have hkickp : (s.movedOn cs d s.inbox).kickp p = s.kickp p := by simp [State.kickp]
  have hwork : (s.movedOn cs d s.inbox).work p = s.work p := by simp [State.work]
  unfold producerStep at h
  split at h
  · next hk =>
    obtain ⟨u, hu, ht⟩ := pKick_next.1 h
    exact .kicks p (State.nextWrite_of_choose_kick hc hk) (by simpa [hk] using hkick) hruns cs d s.inbox
      (hkickp ▸ hk) u hu ht
  · next hk =>
    have hk' : (s.movedOn cs d s.inbox).kickp p = false := by simpa using hk
    have hnone : s.nextKick = none := by simpa [hk'] using hkick
    split at h
    · next b bs ts hw =>
      have hwrite := State.nextWrite_of_choose hc hk' hw
      obtain ⟨⟨r, hr⟩, rfl⟩ | ⟨hfree, -, rfl⟩ := pEnq_next h
      · exact .rests (by simpa [hr] using hwrite) hnone hruns cs d s.inbox s.seed _ List.prefix_rfl rfl
      · exact .writes p b bs ts (by simpa [hfree] using hwrite) hnone hruns cs d s.inbox (hkickp ▸ hk')
          (hwork ▸ hw) hfree rfl
    · next hw =>
      obtain rfl : s.movedOn cs d s.inbox = t := by simpa using h
      exact .rests (State.nextWrite_of_choose_rest hc hw) hnone hruns cs d s.inbox s.seed _ List.prefix_rfl rfl

/-- An accepted input: its operation is run, or only the environment's side and the marks move on. -/
theorem taken_of_accept {cs : List Choice} {d : Nat} (hc : s.choose = some (.accept k, s.movedOn cs d s.inbox))
    (h : accept k (s.movedOn cs d s.inbox) = .next t) : Taken s t := by
  have hwrite := State.nextWrite_of_choose_accept hc
  have hkick := State.nextKick_of_choose_accept hc
  have hconsume : (s.movedOn cs d s.inbox).consume k = s.movedOn cs d (s.inbox.eraseIdx k) := rfl
  have hholds (i : Instr) : acceptHold i (s.movedOn cs d s.inbox) = acceptHold i s := by
    cases i <;> rfl
  obtain ⟨hin, rfl⟩ | ⟨vs, hin, rfl⟩ | ⟨w, hin, ⟨r, hd, rfl⟩ | ⟨i, hd, ⟨hheld, rfl⟩ | ⟨hfree, he⟩⟩⟩ := accept_next h
  · exact .rests hwrite hkick (State.runs_of_choose_nothing hc (by simp [State.operationAt, hin])) cs d _ s.seed _
      List.prefix_rfl rfl
  · exact .rests hwrite hkick (State.runs_of_choose_nothing hc (by simp [State.operationAt, hin])) cs d _
      vs _ List.prefix_rfl rfl
  · exact .rests hwrite hkick (State.runs_of_choose_nothing hc (State.operationAt_of_error hin hd)) cs d _
      s.seed _ (prefix_addOnce r _) rfl
  · have hruns := State.runs_of_choose_operation hc (State.operationAt_of_ok hin hd)
    exact .rests hwrite hkick (by simpa [hheld] using hruns) cs d _ s.seed _ List.prefix_rfl rfl
  · have hruns := State.runs_of_choose_operation hc (State.operationAt_of_ok hin hd)
    exact .runs i hwrite hkick (by simpa [hfree] using hruns) cs d _ (hholds i ▸ hfree) (hconsume ▸ he)

/-- Every step that goes on is one of the four kinds. -/
theorem step_taken (h : step s = .next t) : Taken s t := by
  obtain ⟨-, ⟨hc, rfl⟩ | ⟨c, u, hc, hp⟩⟩ := step_next h
  · exact .rests (by simp [State.nextWrite, hc]) (by simp [State.nextKick, hc]) (by simp [State.runs, hc]) t.plan
      t.draws t.inbox t.seed _ List.prefix_rfl rfl
  · obtain ⟨cs, d, rfl⟩ := State.choose_some hc
    cases c with
    | producer p => exact taken_of_producerStep hc hp
    | accept k => exact taken_of_accept hc hp

end Choosing

end Sys2Proof.Machine
end

section
/-! SUPPORT. Who writes each field (10_state.md R37): the frame of each operation, and of a step by what it is not. -/

namespace Sys2Proof.Machine

section Frames

variable {s t : State} {i : Instr}

/-! ## The operations -/

theorem Ran.cfg_eq (h : Ran s i t) : t.cfg = s.cfg := by
  cases h <;> rfl

/-- No operation but RST writes into the ring or moves the lock. -/
theorem Ran.ring_eq (h : Ran s i t) (hi : i ≠ .rst) : t.head = s.head ∧ t.buf = s.buf ∧ t.owner = s.owner := by
  cases h with
  | rst => exact absurd rfl hi
  | _ => exact ⟨rfl, rfl, rfl⟩

theorem Ran.consumer_eq (h : Ran s i t) (hi : i ≠ .rst) (htxc : i ≠ .txc) :
    t.tail = s.tail ∧ t.sending = s.sending := by
  cases h with
  | rst => exact absurd rfl hi
  | spurious | handsOff | stops => exact absurd rfl htxc
  | _ => exact ⟨rfl, rfl⟩

theorem Ran.hb_eq (h : Ran s i t) (hi : i ≠ .rst) (htick : i ≠ .tick) : t.hb = s.hb := by
  cases h with
  | rst => exact absurd rfl hi
  | tickBeats | tickCounts => exact absurd rfl htick
  | _ => rfl

/-- An operation gives work only to the producer that accepts it. -/
theorem Ran.seq_eq (h : Ran s i t) (hi : i ≠ .rst) {p : Producer} (hp : acceptor i ≠ some p) : t.seq p = s.seq p := by
  have hne {q : Producer} (hq : acceptor i = some q) : p ≠ q := fun e => hp (e ▸ hq)
  cases h with
  | rst => exact absurd rfl hi
  | enq b => exact State.seq_give_other _ _ _ (hne rfl)
  | pchgSilent g v | pchgEvents g v =>
    have hpg : p ≠ .monitor g.toNat := hne rfl
    simp [State.seq_give_other _ _ _ hpg]
  | tickBeats =>
    rw [State.seq_give_other _ _ _ (hne rfl)]
    cases p <;> rfl
  | _ => cases p <;> rfl

/-- An operation writes a snapshot only if it is a PCHG of the group that finds no event. -/
theorem Ran.snap_eq (h : Ran s i t) (hi : i ≠ .rst) {g : Nat}
    (hg : ∀ k v, i = .pchg k v → k.toNat = g → s.eventsAt g v ≠ []) : t.snap g = s.snap g := by
  cases h with
  | rst => exact absurd rfl hi
  | pchgSilent k v _ _ hev =>
    have hne : g ≠ k.toNat := fun e => hg k v rfl e.symm (e ▸ hev)
    simp [State.snap_complete_other _ hne, State.snap_setCur]
  | pchgEvents => simp [State.snap_setCur]
  | _ => rfl

theorem Ran.cur_eq (h : Ran s i t) (hi : i ≠ .rst) {g : Nat} (hg : ∀ k v, i = .pchg k v → k.toNat ≠ g) :
    t.cur g = s.cur g := by
  cases h with
  | rst => exact absurd rfl hi
  | pchgSilent k v | pchgEvents k v => simp [State.cur_setCur_other _ v (hg k v rfl).symm]
  | _ => rfl

/-! ## The steps -/

/-- KICK writes the consumer's side only, and the wire grows. -/
theorem kick_writes (h : kick s = .next t) :
    ∃ k x w, s.wire <+: w ∧ t = { s with tail := k, sending := x, wire := w } := by
  obtain ⟨-, -, -, e⟩ | ⟨-, e⟩ := kick_next h
  · exact ⟨_, _, _, List.prefix_append _ _, e⟩
  · exact ⟨s.tail, s.sending, s.wire, List.prefix_rfl, e⟩

theorem Taken.cfg_eq (h : Taken s t) : t.cfg = s.cfg := by
  cases h with
  | rests _ _ _ cs d is vs rs _ ht => rw [ht]
  | writes p b bs ts _ _ _ cs d is _ _ _ ht => simp [ht]
  | kicks p _ _ _ cs d is _ u hu ht =>
    obtain ⟨k, x, w, -, rfl⟩ := kick_writes hu
    simp [ht]
  | runs i _ _ _ cs d is _ hexec => exact (exec_ran hexec).cfg_eq

theorem Taken.head_buf_eq (h : Taken s t) (hw : s.nextWrite = none) (hr : s.runs ≠ some .rst) :
    t.head = s.head ∧ t.buf = s.buf := by
  cases h with
  | rests _ _ _ cs d is vs rs _ ht => exact ⟨by rw [ht], by rw [ht]⟩
  | writes p b bs ts hwrite => simp [hw] at hwrite
  | kicks p _ _ _ cs d is _ u hu ht =>
    obtain ⟨k, x, w, -, rfl⟩ := kick_writes hu
    simp [ht]
  | runs i _ _ hruns cs d is _ hexec =>
    obtain ⟨hh, hb, -⟩ := (exec_ran hexec).ring_eq fun e => hr (e ▸ hruns)
    exact ⟨hh, hb⟩

theorem Taken.tail_sending_eq (h : Taken s t) (hk : s.nextKick = none) (htxc : s.runs ≠ some .txc)
    (hr : s.runs ≠ some .rst) : t.tail = s.tail ∧ t.sending = s.sending := by
  cases h with
  | rests _ _ _ cs d is vs rs _ ht => exact ⟨by rw [ht], by rw [ht]⟩
  | writes p b bs ts _ _ _ cs d is _ _ _ ht => simp [ht]
  | kicks p _ hkick => simp [hk] at hkick
  | runs i _ _ hruns cs d is _ hexec =>
    exact (exec_ran hexec).consumer_eq (fun e => hr (e ▸ hruns)) fun e => htxc (e ▸ hruns)

/-- The lock moves by a P-ENQ, or is released by a P-KICK. -/
theorem Taken.owner_eq (h : Taken s t) (hw : s.nextWrite = none) (hr : s.runs ≠ some .rst) :
    t.owner = s.owner ∨ (s.nextKick.isSome = true ∧ t.owner = none) := by
  cases h with
  | rests _ _ _ cs d is vs rs _ ht => exact .inl (by rw [ht])
  | writes p b bs ts hwrite => simp [hw] at hwrite
  | kicks p _ hkick _ cs d is _ u hu ht =>
    obtain ⟨k, x, w, -, rfl⟩ := kick_writes hu
    rw [ht]
    exact (State.endKick_owner _).imp id fun ho => ⟨by simp [hkick], ho⟩
  | runs i _ _ hruns cs d is _ hexec =>
    obtain ⟨-, -, ho⟩ := (exec_ran hexec).ring_eq fun e => hr (e ▸ hruns)
    exact .inl ho

theorem Taken.hb_eq (h : Taken s t) (htick : s.runs ≠ some .tick) (hr : s.runs ≠ some .rst) : t.hb = s.hb := by
  cases h with
  | rests _ _ _ cs d is vs rs _ ht => rw [ht]
  | writes p b bs ts _ _ _ cs d is _ _ _ ht => simp [ht]
  | kicks p _ _ _ cs d is _ u hu ht =>
    obtain ⟨k, x, w, -, rfl⟩ := kick_writes hu
    simp [ht]
  | runs i _ _ hruns cs d is _ hexec =>
    exact (exec_ran hexec).hb_eq (fun e => hr (e ▸ hruns)) fun e => htick (e ▸ hruns)

theorem Taken.seq_eq (h : Taken s t) {p : Producer} (hw : ∀ bs, s.nextWrite ≠ some (p, bs))
    (hk : s.nextKick ≠ some p) (ha : ∀ i, s.runs = some i → acceptor i ≠ some p) (hr : s.runs ≠ some .rst) :
    t.seq p = s.seq p := by
  cases h with
  | rests _ _ _ cs d is vs rs _ ht =>
    rw [ht]
    cases p <;> rfl
  | writes q b bs ts hwrite _ _ cs d is _ _ _ ht =>
    have hpq : p ≠ q := fun e => hw (b :: bs) (e ▸ hwrite)
    rw [ht, State.seq_publish_other _ _ _ hpq]
    cases p <;> rfl
  | kicks q _ hkick _ cs d is _ u hu ht =>
    have hpq : p ≠ q := fun e => hk (e ▸ hkick)
    obtain ⟨k, x, w, -, rfl⟩ := kick_writes hu
    rw [ht, State.seq_endKick_other _ hpq]
    cases p <;> rfl
  | runs i _ _ hruns cs d is _ hexec =>
    simpa using (exec_ran hexec).seq_eq (fun e => hr (e ▸ hruns)) (ha i hruns)

theorem Taken.snap_eq (h : Taken s t) {g : Nat}
    (hk : ¬ (s.nextKick = some (.monitor g) ∧ s.work (.monitor g) = [[]]))
    (hg : ∀ k v, s.runs = some (.pchg k v) → k.toNat = g → s.eventsAt g v ≠ []) (hr : s.runs ≠ some .rst) :
    t.snap g = s.snap g := by
  cases h with
  | rests _ _ _ cs d is vs rs _ ht =>
    rw [ht]
    rfl
  | writes p b bs ts _ _ _ cs d is _ _ _ ht =>
    rw [ht, State.snap_publish]
    rfl
  | kicks p _ hkick _ cs d is _ u hu ht =>
    obtain ⟨k, x, w, -, rfl⟩ := kick_writes hu
    rw [ht, State.snap_endKick_of_not_last]
    · rfl
    · rintro ⟨rfl, hlast⟩
      exact hk ⟨hkick, hlast⟩
  | runs i _ _ hruns cs d is _ hexec =>
    exact (exec_ran hexec).snap_eq (fun e => hr (e ▸ hruns)) fun k v e => hg k v (e ▸ hruns)

theorem Taken.cur_eq (h : Taken s t) {g : Nat} (hg : ∀ k v, s.runs = some (.pchg k v) → k.toNat ≠ g)
    (hr : s.runs ≠ some .rst) : t.cur g = s.cur g := by
  cases h with
  | rests _ _ _ cs d is vs rs _ ht =>
    rw [ht]
    rfl
  | writes p b bs ts _ _ _ cs d is _ _ _ ht =>
    rw [ht, State.cur_publish]
    rfl
  | kicks p _ _ _ cs d is _ u hu ht =>
    obtain ⟨k, x, w, -, rfl⟩ := kick_writes hu
    rw [ht, State.cur_endKick]
    rfl
  | runs i _ _ hruns cs d is _ hexec =>
    exact (exec_ran hexec).cur_eq (fun e => hr (e ▸ hruns)) fun k v e => hg k v (e ▸ hruns)

/-- A P-ENQ finds the lock free or its own, and owns it after. -/
theorem Taken.owner_of_write (h : Taken s t) {p : Producer} {bs : List Byte} (hw : s.nextWrite = some (p, bs)) :
    (s.owner = none ∨ s.owner = some p) ∧ t.owner = some p := by
  cases h with
  | writes q b cs ts hwrite _ _ _ _ _ _ _ hfree ht =>
    obtain ⟨rfl, -⟩ : p = q ∧ bs = b :: cs := by simpa using hw.symm.trans hwrite
    exact ⟨(State.enqHold_none.1 hfree).1, by simp [ht]⟩
  | rests hwrite | kicks _ hwrite | runs _ hwrite => simp [hw] at hwrite

end Frames

/-- Settles O4: each clause is the frame of the steps that are none of the field's writers. -/
theorem fieldWriters : Obligations.FieldWriters := by
  intro s t h
  have taken := step_taken h
  refine ⟨taken.cfg_eq, fun hne => ?_, fun hne => ?_, fun hne => ?_, fun hne => ?_, fun p hne => ?_, fun g hne => ?_,
    fun g hne => ?_, fun p bs => taken.owner_of_write, fun htxc => ?_⟩
  · by_contra! hc
    obtain ⟨hh, hb⟩ := taken.head_buf_eq (by simpa using hc.1) hc.2
    exact hne.elim (absurd hh) (absurd hb)
  · by_contra! hc
    obtain ⟨hk, htxc, hr⟩ := hc
    obtain ⟨ht, hs⟩ := taken.tail_sending_eq (by simpa using hk) htxc hr
    exact hne.elim (absurd ht) (absurd hs)
  · by_contra! hc
    obtain ⟨hw, hk, hr⟩ := hc
    exact (taken.owner_eq (by simpa using hw) hr).elim hne fun ⟨hkick, ho⟩ => hk hkick ho
  · by_contra! hc
    exact hne (taken.hb_eq hc.1 hc.2)
  · by_contra! hc
    obtain ⟨hw, hk, ha, hr⟩ := hc
    exact hne (taken.seq_eq hw hk ha hr)
  · by_contra! hc
    obtain ⟨hk, hg, hr⟩ := hc
    exact hne (taken.snap_eq (fun ⟨hkick, hlast⟩ => hk hkick hlast) (fun k v hkv e => absurd e (hg k v hkv)) hr)
  · by_contra! hc
    exact hne (taken.cur_eq hc.1 hc.2)
  · cases taken with
    | runs i _ _ hruns cs d is _ hexec =>
      obtain rfl : i = .txc := by simpa using hruns.symm.trans htxc
      have hran := exec_ran hexec
      obtain ⟨hh, hb, ho⟩ := hran.ring_eq (by simp)
      exact ⟨hh, hb, ho, fun p => by simpa using hran.seq_eq (by simp) (p := p) (by simp [acceptor])⟩
    | rests _ _ hruns | writes _ _ _ _ _ _ hruns | kicks _ _ _ hruns => simp [htxc] at hruns

end Sys2Proof.Machine
end

section
/-! SUPPORT. The records: the fault record, the refusal marks and the wire (10_state.md R33, R35). -/

namespace Sys2Proof.Machine

/-- Every record of `s` is a first part of `t`'s. -/
abbrev RecordsGrow (s t : State) : Prop :=
  s.faults <+: t.faults ∧ s.refusals <+: t.refusals ∧ s.wire <+: t.wire

section Records

variable {s t : State} {i : Instr}

/-- Records that a step does not write are a first part of themselves. -/
theorem recordsGrow_of_eq (hf : t.faults = s.faults) (hm : t.refusals = s.refusals) (hw : t.wire = s.wire) :
    RecordsGrow s t := by
  simp [RecordsGrow, hf, hm, hw]

theorem Ran.recordsGrow (h : Ran s i t) : RecordsGrow s t := by
  cases h with
  | refused r => exact ⟨List.prefix_rfl, prefix_addOnce r _, List.prefix_rfl⟩
  | spurious => exact ⟨prefix_addOnce _ _, List.prefix_rfl, List.prefix_rfl⟩
  | handsOff => exact ⟨List.prefix_rfl, List.prefix_rfl, List.prefix_append _ _⟩
  | _ => exact recordsGrow_of_eq rfl rfl rfl

/-- TXC with no byte in flight is the one fault. -/
theorem Ran.faults_eq (h : Ran s i t) (hn : ¬ (i = .txc ∧ s.sending = false)) : t.faults = s.faults := by
  cases h with
  | spurious hs => exact absurd ⟨rfl, hs⟩ hn
  | _ => rfl

theorem Taken.recordsGrow (h : Taken s t) : RecordsGrow s t := by
  cases h with
  | rests _ _ _ cs d is vs rs hmarks ht =>
    rw [ht]
    exact ⟨List.prefix_rfl, hmarks, List.prefix_rfl⟩
  | writes p b bs ts _ _ _ cs d is _ _ _ ht => exact recordsGrow_of_eq (by simp [ht]) (by simp [ht]) (by simp [ht])
  | kicks p _ _ _ cs d is _ u hu ht =>
    obtain ⟨k, x, w, hw, rfl⟩ := kick_writes hu
    obtain ⟨m, l, o, -, e⟩ := State.endKick_writes _ p
    rw [ht, e]
    exact ⟨List.prefix_rfl, List.prefix_rfl, hw⟩
  | runs i _ _ _ cs d is _ hexec => exact (exec_ran hexec).recordsGrow

theorem Taken.faults_eq (h : Taken s t) (hn : ¬ (s.runs = some .txc ∧ s.sending = false)) : t.faults = s.faults := by
  cases h with
  | rests _ _ _ cs d is vs rs _ ht => rw [ht]
  | writes p b bs ts _ _ _ cs d is _ _ _ ht => simp [ht]
  | kicks p _ _ _ cs d is _ u hu ht =>
    obtain ⟨k, x, w, -, rfl⟩ := kick_writes hu
    simp [ht]
  | runs i _ _ hruns cs d is _ hexec => exact (exec_ran hexec).faults_eq fun ⟨e, hs⟩ => hn ⟨e ▸ hruns, hs⟩

end Records

/-- Settles O5, kind of step by kind of step: what is recorded is put at the end. -/
theorem recordsOnlyGrow : Obligations.RecordsOnlyGrow := by
  intro s t h
  obtain ⟨hf, hm, hw⟩ := (step_taken h).recordsGrow
  exact ⟨hf, hm, hw, fun hne => by_contra fun hn => hne ((step_taken h).faults_eq hn)⟩

end Sys2Proof.Machine
end

section
/-! SUPPORT. The life of an invocation of an input monitor (41_edge_monitor.md R131, R134, R135): what its acceptance
and the P-KICK of its last transaction do to `snap`, `cur` and the monitor's sequencer. -/

namespace Sys2Proof.Machine

section Invocation

variable {s t : State} {g : Nat}

/-- PCHG with no event reads the port and completes at once. -/
theorem State.startInvocation_silent (hlen : s.mon.length = s.cfg.G) (hg : g < s.cfg.G) {v : Byte}
    (hidle : s.busy (.monitor g) = false) (hev : s.eventsAt g v = []) :
    (s.startInvocation g v).cur g = v ∧ (s.startInvocation g v).snap g = v ∧
      (s.startInvocation g v).busy (.monitor g) = false := by
  have hmon : g < s.mon.length := hlen ▸ hg
  have hp : Producer.monitor g ∈ s.producers := by simpa [State.producers] using hg
  obtain ⟨-, hk⟩ := State.busy_eq_false_iff.1 hidle
  obtain ⟨-, e⟩ | ⟨hne, -⟩ := s.startInvocation_cases g v
  · rw [e]
    have hseq := State.seq_give_same (s.setCur g v) [] (by simpa using hlen) hp
    refine ⟨by simp [State.cur_setCur_same, hmon], ?_, State.busy_eq_false_iff.2 ?_⟩
    · rw [State.snap_complete_same _ (by simpa using hmon)]
      simp [State.cur_setCur_same, hmon]
    · rw [State.work, State.kickp, State.seq_complete, hseq, State.kickp, State.seq_setCur]
      exact ⟨rfl, hk⟩
  · exact absurd hev hne

/-- PCHG with an event reads the port and leaves the snapshot to the end of the invocation. -/
theorem State.startInvocation_events (hlen : s.mon.length = s.cfg.G) (hg : g < s.cfg.G) {v : Byte}
    (hev : s.eventsAt g v ≠ []) :
    (s.startInvocation g v).cur g = v ∧ (s.startInvocation g v).snap g = s.snap g ∧
      (s.startInvocation g v).busy (.monitor g) = true := by
  have hmon : g < s.mon.length := hlen ▸ hg
  have hp : Producer.monitor g ∈ s.producers := by simpa [State.producers] using hg
  obtain ⟨he, -⟩ | ⟨-, e⟩ := s.startInvocation_cases g v
  · exact absurd he hev
  · rw [e]
    have hseq := State.seq_give_same (s.setCur g v) ((s.eventsAt g v).map frame) (by simpa using hlen) hp
    exact ⟨by simp [State.cur_setCur_same, hmon], by simp [State.snap_setCur],
      by simp [State.busy, State.work, hseq, hev]⟩

/-- After the first RST a PCHG that is run starts an invocation. -/
theorem Taken.startInvocation (h : Taken s t) (hr : s.resetDone = true) {k : BitVec 4} {v : Byte}
    (hg : k.toNat < s.cfg.G) (hruns : s.runs = some (.pchg k v)) :
    s.busy (.monitor k.toNat) = false ∧
      ∃ cs d is, t = (s.movedOn cs d is).startInvocation k.toNat v := by
  cases h with
  | runs i _ _ hi cs d is haccept hexec =>
    obtain rfl : i = .pchg k v := by simpa using hi.symm.trans hruns
    have hidle : s.busy (.monitor k.toNat) = false := by
      simpa [acceptHold, acceptor, groupIndex, hr] using haccept
    obtain ⟨hge, -⟩ | ⟨-, hn, -⟩ | ⟨-, -, hb, -⟩ | ⟨-, -, -, e⟩ := execPchg_cases k v (s.movedOn cs d is)
    · exact absurd hg (Nat.not_lt.2 hge)
    · exact absurd (hn.symm.trans hr) (by simp)
    · exact absurd (hb.symm.trans hidle) (by simp)
    · exact ⟨hidle, cs, d, is, by simpa using hexec.symm.trans e⟩
  | rests _ _ hi | writes _ _ _ _ _ _ hi | kicks _ _ _ hi => simp [hruns] at hi

/-- The P-KICK of an invocation's last transaction ends it: the snapshot is the value read, the monitor is idle. -/
theorem Taken.completes (h : Taken s t) (hlen : s.mon.length = s.cfg.G) (hg : g < s.cfg.G)
    (hkick : s.nextKick = some (.monitor g)) (hlast : s.work (.monitor g) = [[]]) :
    t.snap g = s.cur g ∧ t.cur g = s.cur g ∧ t.busy (.monitor g) = false := by
  have hmon : g < s.mon.length := hlen ▸ hg
  cases h with
  | kicks p _ hp _ cs d is _ u hu ht =>
    obtain rfl : p = .monitor g := by simpa using hp.symm.trans hkick
    obtain ⟨k, x, w, -, rfl⟩ := kick_writes hu
    set u : State := { s.movedOn cs d is with tail := k, sending := x, wire := w }
    have hulast : u.work (.monitor g) = [[]] := hlast
    refine ⟨?_, ?_, State.busy_eq_false_iff.2 ?_⟩
    · rw [ht, State.snap_endKick_of_last u hmon hulast]
      rfl
    · rw [ht, State.cur_endKick]
      rfl
    · have hmem : Producer.monitor g ∈ u.producers := u.mem_producers.2 (.inr ⟨g, hg, rfl⟩)
      obtain ⟨ts, hw, hseq, -⟩ | ⟨hmid, -⟩ := u.endKick_same hlen hmem
      · obtain rfl : ts = [] := by simpa using (hulast.symm.trans hw).symm
        simp [ht, State.work, State.kickp, hseq]
      · exact absurd hulast (hmid [])
  | rests _ hn | writes _ _ _ _ _ hn | runs _ _ hn => simp [hkick] at hn

end Invocation

/-- Settles O34: only the end of an invocation and RST write a snapshot, and an invocation's value is read at its
acceptance. -/
theorem snapshotIsLastCompletedRead : Obligations.SnapshotIsLastCompletedRead := by
  intro s t g hinv hg h
  obtain ⟨⟨-, hlen⟩, -⟩ := hinv
  have taken := step_taken h
  refine ⟨fun hne => ?_, taken.completes hlen hg, fun k v hr hruns hk => ?_, fun hne => ?_⟩
  · by_contra! hc
    obtain ⟨hr, hkick, hsilent⟩ := hc
    exact hne (taken.snap_eq (fun ⟨hk, hw⟩ => hkick hk hw) hsilent hr)
  · subst hk
    obtain ⟨hidle, cs, d, is, rfl⟩ := taken.startInvocation hr hg hruns
    by_cases hev : s.eventsAt k.toNat v = []
    · obtain ⟨hcur, hsnap, hbusy⟩ := State.startInvocation_silent (s := s.movedOn cs d is) hlen hg hidle hev
      exact ⟨hcur, fun _ => ⟨hsnap, hbusy⟩, fun hne => absurd hev hne⟩
    · obtain ⟨hcur, hsnap, hbusy⟩ := State.startInvocation_events (s := s.movedOn cs d is) hlen hg hev
      exact ⟨hcur, fun he => absurd he hev, fun _ => ⟨hsnap, hbusy⟩⟩
  · by_contra! hc
    exact hne (taken.cur_eq hc.2 hc.1)

end Sys2Proof.Machine
end

section
/-! SUPPORT. The ring's status, the reset values and the status view (10_state.md R27, R40, R41). -/

namespace Sys2Proof.Machine

/-- Settles O45: `count` is the distance from `tail` to `head`, below `N`, and `N >= 2` tells empty from full. -/
theorem ringCapacity : Obligations.RingCapacity := by
  intro s hinv
  obtain ⟨⟨hwf, -⟩, ⟨hh, ht, -⟩, -⟩ := hinv
  obtain ⟨hN, -⟩ := Config.bounds_of_wf hwf
  have hcount := State.count_cases hh ht
  have hnext := State.nextIndex_cases hh
  rw [State.empty_iff, State.full_iff]
  refine ⟨by omega, by simp [State.pending, State.pendingSlots], by omega, by omega, by omega⟩

/-- Settles O1: the state before the first RST differs from reset only in `resetDone`, of which the invariant does not
speak. -/
theorem resetSatisfiesInvariant : Obligations.ResetSatisfiesInvariant := by
  have hreset : State.reset.Inv := by decide
  exact ⟨hreset, by decide, hreset⟩

/-- Settles O22: RST writes every field of R41, from any state. -/
theorem rstResult : Obligations.RstResult := by
  refine ⟨fun s => ⟨s.afterRst, rfl, rfl, rfl, rfl, fun g v hg hv => ?_, fun p => ?_, rfl, rfl, rfl, rfl,
    s.length_mon_afterRst, rfl⟩, rfl, rfl⟩
  · rw [State.snap_afterRst s hg, State.seedFor, hv]
    rfl
  · rw [State.work, State.kickp, State.seq_afterRst]
    exact ⟨rfl, rfl⟩

section View

variable (s : State)

/-! ## The status view -/

/-- A slot index fits the eight bits of its register. -/
theorem setWidth_index {i : Nat} (h : i < 256) : (BitVec.ofNat 8 i).setWidth 16 = BitVec.ofNat 16 i := by
  apply BitVec.eq_of_toNat_eq
  rw [BitVec.toNat_setWidth, BitVec.toNat_ofNat, BitVec.toNat_ofNat]
  omega

/-- The STATUS register bit by bit (10_state.md R40). -/
theorem State.getLsbD_statusBits (i : Nat) :
    (s.statusBits.setWidth 16).getLsbD i = [s.sending, s.empty, s.full, s.locked, s.busy .main].getD i false := by
  rw [BitVec.getLsbD_setWidth]
  obtain hi | hi : i < 8 ∨ 8 ≤ i := by omega
  · simp only [State.statusBits, BitVec.getLsbD_append, BitVec.getLsbD_ofBool]
    interval_cases i <;> simp
  · rw [BitVec.getLsbD_of_ge _ _ hi, Bool.and_false, List.getD_eq_default _ _ (by simp; omega)]

/-- The EBUSY register's bit `i` is the busy flag of group `i` (10_state.md R40). -/
theorem State.getLsbD_groupBusyBits (n : Nat) {i : Nat} (hi : i < 16) :
    (s.groupBusyBits n).getLsbD i = (decide (i < n) && s.busy (.monitor i)) := by
  induction n with
  | zero => simp [State.groupBusyBits]
  | succ n ih =>
    rw [State.groupBusyBits, BitVec.getLsbD_or, ih]
    by_cases hin : i = n
    · subst hin
      cases s.busy (.monitor i) <;> simp [hi]
    · have hlt : i < n + 1 ↔ i < n := by omega
      by_cases hb : s.busy (.monitor n) = true <;> simp [hb, hlt, BitVec.getLsbD_twoPow, Ne.symm hin]

theorem State.groupBusyBits_eq_zero (h : ∀ p, s.busy p = false) (n : Nat) : s.groupBusyBits n = 0 := by
  induction n with
  | zero => rfl
  | succ n ih => simp [State.groupBusyBits, ih, h]

theorem State.view_snap {g : Nat} (hg : g < s.cfg.G) : s.view (0x10 + g) = some ((s.snap g).setWidth 16) := by
  rw [State.view, if_neg (by omega), if_neg (by omega), if_neg (by omega), if_neg (by omega), if_neg (by omega),
    if_pos (by omega), Nat.add_sub_cancel_left]

theorem State.view_slot {i : Nat} (hG : s.cfg.G ≤ 16) (hi : i < s.cfg.N) :
    s.view (0x100 + i) = some ((s.slotByte i).setWidth 16) := by
  rw [State.view, if_neg (by omega), if_neg (by omega), if_neg (by omega), if_neg (by omega), if_neg (by omega),
    if_neg (by omega), if_pos (by omega), Nat.add_sub_cancel_left]

theorem State.view_reserved {n : Nat}
    (h : (5 ≤ n ∧ n < 0x10) ∨ (0x10 + s.cfg.G ≤ n ∧ n < 0x100) ∨ 0x100 + s.cfg.N ≤ n) (hG : s.cfg.G ≤ 16) :
    s.view n = none := by
  rw [State.view, if_neg (by omega), if_neg (by omega), if_neg (by omega), if_neg (by omega), if_neg (by omega),
    if_neg (by omega), if_neg (by omega)]

end View

/-- The registers after RST (10_state.md R40, R41). -/
theorem State.view_afterRst {s : State} (hN : 2 ≤ s.cfg.N) :
    s.afterRst.view 0x00 = some 0 ∧ s.afterRst.view 0x01 = some 0 ∧ s.afterRst.view 0x02 = some 0x02 ∧
      s.afterRst.view 0x03 = some 0 ∧ s.afterRst.view 0x04 = some 0 := by
  have hidle (p : Producer) : s.afterRst.busy p = false :=
    State.busy_eq_false_iff.2 (by simp [State.work, State.kickp, Sequencer.idle])
  have hfull : s.afterRst.full = false :=
    State.full_eq_false_iff.2 (by simp [State.afterRst, State.nextIndex, Nat.mod_eq_of_lt hN])
  have hstatus : s.afterRst.statusBits = 0x02 := by
    have hempty : s.afterRst.empty = true := State.empty_iff.2 rfl
    have hlocked : s.afterRst.locked = false := rfl
    have hsending : s.afterRst.sending = false := rfl
    rw [State.statusBits, hidle, hlocked, hfull, hempty, hsending]
    decide
  exact ⟨rfl, rfl, congrArg (fun w : Byte => some (w.setWidth 16)) hstatus, rfl,
    congrArg some (State.groupBusyBits_eq_zero _ hidle _)⟩

/-- Settles O59: each register from its arm of the view, the two status registers bit by bit. -/
theorem statusViewContents : Obligations.StatusViewContents := by
  intro s hwf hh ht
  obtain ⟨hN, hN', hG, -⟩ := Config.bounds_of_wf hwf
  have hstatus := s.getLsbD_statusBits
  refine ⟨congrArg some (setWidth_index (by omega)), congrArg some (setWidth_index (by omega)),
    ⟨_, rfl, hstatus 0, hstatus 1, hstatus 2, ?_, hstatus 4, fun i hi => ?_⟩, rfl,
    ⟨_, rfl, fun i hi => s.getLsbD_groupBusyBits _ hi⟩, fun g => s.view_snap, fun i => s.view_slot hG,
    fun n hn => s.view_reserved hn hG, fun t hrst => ?_⟩
  · rw [hstatus 3]
    cases ho : s.owner <;> simp [State.locked, ho]
  · rw [hstatus i, List.getD_eq_default _ _ (by simpa using hi)]
  · obtain rfl : s.afterRst = t := by simpa [exec, execRst] using hrst
    obtain ⟨hhead, htail, hst, hhb, heb⟩ := State.view_afterRst hN
    refine ⟨hhead, htail, hst, hhb, heb, fun g v hg hv => ?_⟩
    rw [s.afterRst.view_snap hg, State.snap_afterRst s hg, State.seedFor, hv]
    rfl

end Sys2Proof.Machine
end

section
/-! SUPPORT. With `head` and `tail` inside the slot array every operation a step is made of goes on: no slot outside
the ring is formed (20_memory.md R53). -/

namespace Sys2Proof.Machine

section GoesOn

variable {s : State}

theorem handOff_of_tail_lt (ht : s.tail < s.cfg.N) : handOff s = .next (s.takeNext (s.slotByte s.tail)) :=
  handOff_next.2 ⟨ht, rfl⟩

theorem kick_goes_on (ht : s.tail < s.cfg.N) : ∃ t, kick s = .next t := by
  unfold kick
  split
  · exact ⟨_, handOff_of_tail_lt ht⟩
  · exact ⟨s, rfl⟩

theorem pKick_goes_on (p : Producer) (ht : s.tail < s.cfg.N) : ∃ t, pKick p s = .next t := by
  obtain ⟨u, hu⟩ := kick_goes_on ht
  exact ⟨u.endKick p, pKick_next.2 ⟨u, hu, rfl⟩⟩

theorem pEnq_goes_on (p : Producer) (b : Byte) (bs : List Byte) (ts : List (List Byte)) (hh : s.head < s.cfg.N) :
    ∃ t, pEnq p b bs ts s = .next t := by
  unfold pEnq
  split
  · exact ⟨s, rfl⟩
  · rw [State.memWrite_of_lt b hh]
    exact ⟨_, rfl⟩

theorem producerStep_goes_on (p : Producer) (hh : s.head < s.cfg.N) (ht : s.tail < s.cfg.N) :
    ∃ t, producerStep p s = .next t := by
  unfold producerStep
  split
  · exact pKick_goes_on p ht
  · split
    · exact pEnq_goes_on p _ _ _ hh
    · exact ⟨s, rfl⟩

theorem transmitComplete_goes_on (ht : s.tail < s.cfg.N) : ∃ t, transmitComplete s = .next t := by
  unfold transmitComplete
  split
  · exact ⟨_, handOff_of_tail_lt ht⟩
  · exact ⟨_, rfl⟩

theorem execTxc_goes_on (ht : s.tail < s.cfg.N) : ∃ t, execTxc s = .next t := by
  unfold execTxc
  split
  · exact ⟨_, rfl⟩
  · split
    · exact ⟨_, rfl⟩
    · exact transmitComplete_goes_on ht

/-- TXC is the one operation that reads a slot. -/
theorem exec_goes_on (i : Instr) (ht : s.tail < s.cfg.N) : ∃ t, exec i s = .next t := by
  cases i with
  | rst => exact ⟨s.afterRst, rfl⟩
  | enq b => obtain ⟨-, h⟩ | ⟨-, -, h⟩ | ⟨-, -, h⟩ := execEnq_cases b s <;> exact ⟨_, h⟩
  | pchg g v =>
    obtain ⟨-, h⟩ | ⟨-, -, h⟩ | ⟨-, -, -, h⟩ | ⟨-, -, -, h⟩ := execPchg_cases g v s <;> exact ⟨_, h⟩
  | tick => obtain ⟨-, h⟩ | ⟨-, -, h⟩ | ⟨-, -, h⟩ := execTick_cases s <;> exact ⟨_, h⟩
  | txc => exact execTxc_goes_on ht

theorem acceptWord_goes_on (k : Nat) (w : OpWord) (ht : s.tail < s.cfg.N) : ∃ t, acceptWord k w s = .next t := by
  unfold acceptWord
  split
  · exact ⟨_, rfl⟩
  · split
    · exact ⟨s, rfl⟩
    · exact exec_goes_on (s := s.consume k) _ ht

theorem accept_goes_on (k : Nat) (ht : s.tail < s.cfg.N) : ∃ t, accept k s = .next t := by
  unfold accept
  split
  · exact ⟨s, rfl⟩
  · exact ⟨_, rfl⟩
  · exact acceptWord_goes_on k _ ht

theorem perform_goes_on (c : Choice) (hh : s.head < s.cfg.N) (ht : s.tail < s.cfg.N) : ∃ t, perform c s = .next t := by
  cases c with
  | producer p => exact producerStep_goes_on p hh ht
  | accept k => exact accept_goes_on k ht

/-- Choosing a step leaves the indices and the configuration. -/
theorem stepChosen_goes_on (hh : s.head < s.cfg.N) (ht : s.tail < s.cfg.N) : ∃ t, stepChosen s = .next t := by
  unfold stepChosen
  split
  · exact ⟨s, rfl⟩
  · next c u hc =>
    obtain ⟨cs, d, rfl⟩ := State.choose_some hc
    exact perform_goes_on c hh ht

end GoesOn

/-- Settles O3: the invariant gives a well-formed configuration and indices inside the slot array. -/
theorem invariantStatesNeverStop : Obligations.InvariantStatesNeverStop := by
  intro s hinv
  obtain ⟨⟨hwf, -⟩, ⟨hh, ht, -⟩, -⟩ := hinv
  rw [step, checkedStep, if_pos hwf]
  exact stepChosen_goes_on hh ht

end Sys2Proof.Machine
end

section
/-! SUPPORT. No deadlock (20_memory.md R58, 40_ring_buffer.md R111): a busy producer that owes no KICK waits only for
the lock or for room, the lock's owner only for room, and a TXC makes room. -/

namespace Sys2Proof.Machine

variable {s : State} {p : Producer}

/-- The next step of `p` is a P-ENQ that the lock allows: `p` has a byte to enqueue, and no other producer owns the
lock (40_ring_buffer.md R101, R102). -/
def State.ReadyToWrite (s : State) (p : Producer) : Prop :=
  (∃ b bs ts, s.work p = (b :: bs) :: ts) ∧ (s.owner = none ∨ s.owner = some p)

theorem producerEnabled_of_kickp (h : s.kickp p = true) : producerEnabled s p = true := by
  simp [producerEnabled, h]

/-- A full ring is all that holds a P-ENQ the lock allows. -/
theorem State.ReadyToWrite.enabled (h : s.ReadyToWrite p) (hfull : s.full = false) : producerEnabled s p = true := by
  obtain ⟨⟨b, bs, ts, hw⟩, hlock⟩ := h
  have hfree : s.enqHold p = none := State.enqHold_none.2 ⟨hlock, hfull⟩
  simp [producerEnabled, hw, hfree]

/-- A producer that has work and owes no KICK has a byte to enqueue. -/
theorem State.WorkOk.exists_byte (h : s.WorkOk) (hp : p ∈ s.producers) (hk : s.kickp p = false)
    (hw : s.work p ≠ []) : ∃ b bs ts, s.work p = (b :: bs) :: ts := by
  have hnil : [] ∉ s.work p := Sequencer.nil_notMem_work (h p hp) hk
  obtain ⟨w, ts, hwts⟩ := List.exists_cons_of_ne_nil hw
  cases w with
  | nil => simp [hwts] at hnil
  | cons b bs => exact ⟨b, bs, ts, hwts⟩

/-- Where a producer is busy and none owes a KICK, the lock's owner, or the busy producer if the lock is free, can
write but for a full ring. -/
theorem State.Inv.exists_readyToWrite (h : s.Inv) (hp : p ∈ s.producers) (hbusy : s.busy p = true)
    (hkicks : ∀ q ∈ s.producers, s.kickp q = false) : ∃ q ∈ s.producers, s.ReadyToWrite q := by
  obtain ⟨-, -, ⟨-, howns⟩, -, hwork, -⟩ := h
  cases ho : s.owner with
  | none =>
    have hw : s.work p ≠ [] := by simpa [State.busy, hkicks p hp] using hbusy
    exact ⟨p, hp, hwork.exists_byte hp (hkicks p hp) hw, .inl ho⟩
  | some q =>
    obtain ⟨hq, hw⟩ := howns q (Option.mem_toList.2 ho)
    exact ⟨q, hq, hwork.exists_byte hq (hkicks q hq) hw, .inr ho⟩

/-! ## Room in a full ring -/

theorem State.empty_of_full (hN : 2 ≤ s.cfg.N) (hh : s.head < s.cfg.N) (hfull : s.full = true) : s.empty = false := by
  rw [State.empty_eq_false_iff, ← State.full_iff.1 hfull]
  have := State.nextIndex_cases hh
  omega

/-- A hand-off moves `tail` off the slot after `head`. -/
theorem State.full_takeNext (hN : 2 ≤ s.cfg.N) (ht : s.tail < s.cfg.N) (hfull : s.full = true) (b : Byte) :
    (s.takeNext b).full = false := by
  rw [State.full_eq_false_iff]
  change s.nextIndex s.head ≠ s.nextIndex s.tail
  rw [State.full_iff.1 hfull]
  have := State.nextIndex_cases ht
  omega

/-- A hand-off leaves the producers' work and the lock. -/
theorem State.ReadyToWrite.takeNext (h : s.ReadyToWrite p) (b : Byte) : (s.takeNext b).ReadyToWrite p := h

theorem execTxc_of_nonempty (hr : s.resetDone = true) (hs : s.sending = true) (he : s.empty = false)
    (ht : s.tail < s.cfg.N) : execTxc s = .next (s.takeNext (s.slotByte s.tail)) := by
  simp [execTxc, transmitComplete, hr, hs, he, handOff_of_tail_lt ht]

/-- Settles O50: a KICK that is owed is enabled; else a producer waits for room alone, and in a full ring with no KICK
owed a byte is in flight, whose TXC makes room. -/
theorem noDeadlock : Obligations.NoDeadlock := by
  intro s p hinv hr hp hbusy
  by_cases hkick : ∃ q ∈ s.producers, s.kickp q = true
  · obtain ⟨q, hq, hk⟩ := hkick
    exact .inl ⟨q, hq, producerEnabled_of_kickp hk⟩
  · obtain ⟨q, hq, hready⟩ := hinv.exists_readyToWrite hp hbusy (by simpa using hkick)
    obtain ⟨⟨hwf, -⟩, ⟨hh, ht, -⟩, -, hstart, -⟩ := hinv
    obtain ⟨hN, -⟩ := Config.bounds_of_wf hwf
    cases hfull : s.full with
    | false => exact .inl ⟨q, hq, hready.enabled hfull⟩
    | true =>
      have he : s.empty = false := State.empty_of_full hN hh hfull
      have hs : s.sending = true := by
        by_contra hs
        exact hkick (hstart (by simpa using hs) (State.empty_eq_false_iff.1 he))
      exact .inr ⟨rfl, hs, _, execTxc_of_nonempty hr hs he ht, q, hq,
        (hready.takeNext _).enabled (State.full_takeNext hN ht hfull _)⟩

end Sys2Proof.Machine
end

section
/-! SUPPORT. The decoder on a word given by its fields, and that it inverts the encoder (30_encoding.md R70 to
R73). -/

namespace Sys2Proof

section DecoderRows

variable (G : Nat) (grp : BitVec 4) (data : Byte)

/-! ## A word and its fields -/

variable {grp data} in
theorem opWord_eq_iff {opc : BitVec 4} {w : OpWord} :
    opWord opc grp data = w ↔ opcField w = opc ∧ grpField w = grp ∧ dataField w = data := by
  constructor
  · rintro rfl
    simp
  · rintro ⟨rfl, rfl, rfl⟩
    exact opWord_fields w

/-- The opcodes: those that no operation has, and the five of 30_encoding.md R71. -/
theorem opcode_cases (opc : BitVec 4) :
    (opc = 0 ∨ 6 ≤ opc.toNat) ∨ opc = 1 ∨ opc = 2 ∨ opc = 3 ∨ opc = 4 ∨ opc = 5 := by
  bv_omega

/-! ## The decoder's rows (30_encoding.md R73) -/

theorem decode_opWord_rst :
    decode G (opWord 1 grp data) = if grp = 0 ∧ data = 0 then .ok .rst else .error .badField := by
  simp [decode, decodeBare]

theorem decode_opWord_enq :
    decode G (opWord 2 grp data) = if grp = 0 then .ok (.enq data) else .error .badField := by
  simp [decode, decodeEnq]

theorem decode_opWord_pchg :
    decode G (opWord 3 grp data) = if grp.toNat < G then .ok (.pchg grp data) else .error .badGroup := by
  simp [decode, decodePchg]

theorem decode_opWord_tick :
    decode G (opWord 4 grp data) = if grp = 0 ∧ data = 0 then .ok .tick else .error .badField := by
  simp [decode, decodeBare]

theorem decode_opWord_txc :
    decode G (opWord 5 grp data) = if grp = 0 ∧ data = 0 then .ok .txc else .error .badField := by
  simp [decode, decodeBare]

theorem decode_opWord_reserved {opc : BitVec 4} (h : opc = 0 ∨ 6 ≤ opc.toNat) :
    decode G (opWord opc grp data) = .error .reservedOp := by
  rw [decode, opcField_opWord]
  split
  case h_6 => rfl
  all_goals bv_omega

end DecoderRows

/-- Settles O8, opcode by opcode: each row of an operation is one test, which passes or gives the row's refusal. -/
theorem decoderIsTheTable : Obligations.DecoderIsTheTable := by
  intro G w
  obtain ⟨opc, grp, data, rfl⟩ : ∃ opc grp data, w = opWord opc grp data := ⟨_, _, _, (opWord_fields w).symm⟩
  simp only [opcField_opWord, grpField_opWord, dataField_opWord]
  obtain hres | rfl | rfl | rfl | rfl | rfl := opcode_cases opc
  · have hne : opc ≠ 1#4 ∧ opc ≠ 2#4 ∧ opc ≠ 3#4 ∧ opc ≠ 4#4 ∧ opc ≠ 5#4 := by bv_omega
    rw [decode_opWord_reserved G grp data hres]
    simpa [hne] using hres
  all_goals
    simp only [decode_opWord_rst, decode_opWord_enq, decode_opWord_pchg, decode_opWord_tick, decode_opWord_txc]
    split
    case isTrue hpass => simp [hpass]
    case isFalse hfail =>
      simp only [BitVec.ofNat_eq_ofNat, not_and_or, not_lt] at hfail
      simp [imp_iff_not_or, hfail]

/-- The decoder reads exactly the words that the encoder gives to the operations of the block. -/
theorem decode_eq_ok_iff {G : Nat} {w : OpWord} {i : Instr} :
    decode G w = .ok i ↔ encode i = w ∧ i.wf G = true := by
  obtain ⟨hrst, henq, hpchg, htick, htxc, -⟩ := decoderIsTheTable G w
  cases i with
  | rst => simp [hrst, encode, opWord_eq_iff, Instr.wf]
  | enq b => simp [henq, encode, opWord_eq_iff, Instr.wf]
  | pchg g v =>
    rw [hpchg, encode, opWord_eq_iff, Instr.wf, decide_eq_true_iff]
    constructor
    · rintro ⟨hopc, rfl, hdata, hlt⟩
      exact ⟨⟨hopc, rfl, hdata⟩, hlt⟩
    · rintro ⟨⟨hopc, rfl, hdata⟩, hlt⟩
      exact ⟨hopc, rfl, hdata, hlt⟩
  | tick => simp [htick, encode, opWord_eq_iff, Instr.wf]
  | txc => simp [htxc, encode, opWord_eq_iff, Instr.wf]

/-- Settles O6: the encoder's own word is among those the decoder reads. -/
theorem decodeEncodeAgree : Obligations.DecodeEncodeAgree :=
  fun _ _ hwf => decode_eq_ok_iff.2 ⟨rfl, hwf⟩

/-- Settles O7: the decoder reads no other word. -/
theorem decodedWordEncodesBack : Obligations.DecodedWordEncodesBack :=
  fun _ _ _ hdecode => decode_eq_ok_iff.1 hdecode

/-- A word's fields side by side: as none overlaps another, their sum is their disjunction. -/
theorem opWord_eq_or (opc grp : BitVec 4) (data : Byte) :
    opWord opc grp data = (opc.setWidth 16 <<< 12) ||| (grp.setWidth 16 <<< 8) ||| data.setWidth 16 := by
  have hdata := data.isLt
  have hlow : grp.toNat * 2 ^ 8 ||| data.toNat = grp.toNat * 2 ^ 8 + data.toNat := by
    rw [← Nat.shiftLeft_eq, Nat.shiftLeft_add_eq_or_of_lt hdata]
  have hhigh : opc.toNat * 2 ^ 12 ||| (grp.toNat * 2 ^ 8 + data.toNat) =
      opc.toNat * 2 ^ 12 + (grp.toNat * 2 ^ 8 + data.toNat) := by
    rw [← Nat.shiftLeft_eq, Nat.shiftLeft_add_eq_or_of_lt (by omega)]
  apply BitVec.eq_of_toNat_eq
  simp (disch := omega) only [opWord, BitVec.toNat_ofNat, BitVec.toNat_or, BitVec.toNat_shiftLeft,
    BitVec.toNat_setWidth, Nat.shiftLeft_eq, Nat.mod_eq_of_lt, Nat.lor_assoc]
  rw [hlow, hhigh, Nat.add_assoc]

/-- Settles O10: every operation's word is the disjunction of its fields. -/
theorem operationWords : Obligations.OperationWords := by
  intro g v b
  simp only [encode, opWord_eq_or]
  simp

end Sys2Proof
end

section
/-! SUPPORT. The command codes and the reading of the wire frame by frame (30_encoding.md R77 to R80). -/

namespace Sys2Proof.Machine

theorem commandOfCode_enc (c : Command) : commandOfCode (enc c) = some c := by
  cases c <;> rfl

theorem enc_injective : Function.Injective enc := fun c d h => by
  simpa [commandOfCode_enc] using congrArg commandOfCode h

theorem enc_ne_lineFeed (c : Command) : enc c ≠ lineFeed := by
  cases c <;> decide

/-- Settles O56: a code determines its command, since it reads back as it. -/
theorem encoderCodes : Obligations.EncoderCodes :=
  ⟨rfl, rfl, rfl, rfl, rfl, rfl, rfl, rfl, fun _ _ h => enc_injective h, enc_ne_lineFeed, fun _ => rfl⟩

/-- A frame is one line of the wire. -/
theorem splitLines_frame_append (c : Command) (bs : List Byte) :
    splitLines (frame c ++ bs) = [enc c] :: splitLines bs := by
  simp [frame, splitLines, enc_ne_lineFeed]

/-- A reader sees a frame's command first, then what follows the frame. -/
theorem readEvents_frame_append (c : Command) (bs : List Byte) :
    readEvents (frame c ++ bs) = c :: readEvents bs := by
  simp [readEvents, splitLines_frame_append, eventOfPiece, commandOfCode_enc]

/-- Settles O57, frame by frame. -/
theorem framesReadBack : Obligations.FramesReadBack := by
  intro cs
  induction cs with
  | nil => rfl
  | cons c cs ih => rw [List.map_cons, List.flatten_cons, readEvents_frame_append, ih]

end Sys2Proof.Machine
end

section
/-! SUPPORT. Presented inputs: the pseudo-instructions' expansion, the taking of a refused word and of a `.seed`
directive, and the reference schedule (30_encoding.md R74, R82, R83). -/

namespace Sys2Proof.Machine

variable {s : State} {k : Nat}

/-- Settles O58: SEND's words are those of ENQ, whose opcode adds to the byte without a carry. -/
theorem pseudoInstructionsExpand : Obligations.PseudoInstructionsExpand := by
  refine fun text vs n => ⟨List.map_congr_left fun b _ => ?_, rfl, rfl, rfl⟩
  have hword : encode (.enq b) = 0x2000 + b.setWidth 16 := by
    simp only [encode, opWord]
    bv_omega
  rw [hword]

theorem accept_of_seed {vs : List Byte} (hin : s.inbox[k]? = some (.seed vs)) :
    accept k s = .next ((s.consume k).withSeed vs) := by
  simp [accept, hin]

theorem accept_of_refused {w : OpWord} {r : RefusalKind} (hin : s.inbox[k]? = some (.word w))
    (hdecode : decode s.cfg.G w = .error r) : accept k s = .next ((s.consume k).mark r) := by
  simp [accept, acceptWord, refuse, hin, hdecode]

/-- Settles O13: the chosen step is the taking of a word that the decoder refuses. -/
theorem refusedWordLeavesOnlyItsMark : Obligations.RefusedWordLeavesOnlyItsMark := by
  intro s t k w r hwf hchoose hin hdecode
  rw [step_of_choose hwf hchoose]
  exact ⟨accept_of_refused hin hdecode, by simp⟩

/-- Settles O14: the chosen step is the taking of the directive. -/
theorem seedDirectiveSetsSeeds : Obligations.SeedDirectiveSetsSeeds := by
  intro s t k vs hwf hchoose hin
  rw [step_of_choose hwf hchoose]
  exact accept_of_seed hin

/-! ## The reference schedule -/

theorem State.choose_of_eager (hplan : s.plan = []) (heager : s.policy = .eager) :
    s.choose = s.eagerChoice.map fun c => (c, s) := by
  simp [State.choose, hplan, heager]

theorem State.readyProducers_eq_nil :
    s.readyProducers = [] ↔ ∀ p ∈ s.producers, producerEnabled s p = false := by
  simp [State.readyProducers]

/-- The first ready producer: it is enabled, and none before it in the order `M, E(0), ...` is. -/
theorem State.first_of_readyProducers_cons {p : Producer} {ps : List Producer} (h : s.readyProducers = p :: ps) :
    ∃ n : Nat, s.producers[n]? = some p ∧ producerEnabled s p = true ∧
      ∀ (j : Nat) (q : Producer), j < n → s.producers[j]? = some q → producerEnabled s q = false := by
  obtain ⟨before, after, heq, hbefore, hp, -⟩ := List.filter_eq_cons_iff.1 h
  refine ⟨before.length, by simp [heq], hp, fun j q hj hq => ?_⟩
  rw [heq, List.getElem?_append_left hj] at hq
  simpa using hbefore q (List.mem_of_getElem? hq)

/-- Settles O20: the eager choice is the head of the ready producers, else of the inbox. -/
theorem referenceScheduleOrder : Obligations.ReferenceScheduleOrder := by
  intro s hplan heager
  rw [State.choose_of_eager hplan heager, State.eagerChoice, ← State.readyProducers_eq_nil]
  cases hready : s.readyProducers with
  | cons p ps =>
    obtain ⟨n, hn, hp, hfirst⟩ := State.first_of_readyProducers_cons hready
    refine ⟨by simp, fun t c h => .inl ⟨n, p, ?_, hn, hp, hfirst⟩⟩
    simpa [eq_comm] using congrArg (Option.map Prod.fst) h
  | nil =>
    by_cases hin : s.inbox = []
    · simp [hin]
    · refine ⟨by simp [hin], fun t c h => .inr ⟨?_, hin, rfl⟩⟩
      simpa [hin, eq_comm] using congrArg (Option.map Prod.fst) h

end Sys2Proof.Machine
end

section
/-! SUPPORT. The buffered bytes under each step (40_ring_buffer.md R107, R108): P-ENQ puts one at the end, a hand-off
sends the first, nothing else touches them; and what `k` steps in a row do, one step at a time. -/

namespace Sys2Proof.Machine

variable {s t u : State} {i : Instr} {k : Nat}

/-! ## One step -/

/-- `bs` joins the end of the buffered bytes, or, where nothing is written, the first of them goes to the wire. -/
abbrev FifoStep (s t : State) (bs : List Byte) : Prop :=
  (t.wire = s.wire ∧ t.pending = s.pending ++ bs) ∨
    ∃ b, s.pending = b :: t.pending ∧ t.wire = s.wire ++ [b] ∧ bs = []

/-- What is sent and what is buffered, taken together, grow by what is written. -/
theorem FifoStep.append_eq {bs : List Byte} (h : FifoStep s t bs) :
    t.wire ++ t.pending = s.wire ++ s.pending ++ bs := by
  obtain ⟨hw, hp⟩ | ⟨b, hp, hw, rfl⟩ := h <;> simp [hw, hp]

theorem State.pending_eq_nil_iff (hh : s.head < s.cfg.N) (ht : s.tail < s.cfg.N) :
    s.pending = [] ↔ s.head = s.tail := by
  have := State.count_cases hh ht
  simp only [State.pending, State.pendingSlots, List.map_eq_nil_iff, List.range_eq_nil]
  omega

/-- A hand-off sends the first buffered byte. -/
theorem State.pending_takeNext (hh : s.head < s.cfg.N) (ht : s.tail < s.cfg.N) (he : s.empty = false) (b : Byte) :
    s.pending = s.slotByte s.tail :: (s.takeNext b).pending := by
  rw [State.pending, State.pendingSlots_of_tail_next (t := s.takeNext b) hh ht he rfl rfl rfl]
  rfl

/-- The slot at `head` is none of the buffered ones. -/
theorem State.head_notMem_pendingSlots (hh : s.head < s.cfg.N) (ht : s.tail < s.cfg.N) :
    s.head ∉ s.pendingSlots := by
  have hcount := State.count_cases hh ht
  simp only [State.pendingSlots, List.mem_map, List.mem_range, not_exists, not_and]
  intro j hj he
  obtain h | h : s.tail + j < s.cfg.N ∨ s.cfg.N ≤ s.tail + j := by omega
  · rw [Nat.mod_eq_of_lt h] at he
    omega
  · rw [Nat.mod_eq_sub_mod h, Nat.mod_eq_of_lt (by omega)] at he
    omega

@[simp] theorem State.publish_slotDraw (s : State) (p : Producer) (bs : List Byte) (ts : List (List Byte)) :
    (s.publish p bs ts).slotDraw = s.slotDraw := by
  simp [State.publish]

@[simp] theorem State.slotByte_publish (s : State) (p : Producer) (bs : List Byte) (ts : List (List Byte)) (j : Nat) :
    (s.publish p bs ts).slotByte j = s.slotByte j := by
  simp [State.slotByte]

/-- P-ENQ writes none of the buffered slots, and buffers its byte behind them. -/
theorem State.pending_enqueue (hh : s.head < s.cfg.N) (ht : s.tail < s.cfg.N) (hfull : s.full = false) (p : Producer)
    (b : Byte) (bs : List Byte) (ts : List (List Byte)) :
    ((s.setSlot s.head b).publish p bs ts).pending = s.pending ++ [b] := by
  have hslots : ((s.setSlot s.head b).publish p bs ts).pendingSlots = s.pendingSlots ++ [s.head] :=
    State.pendingSlots_of_head_next hh ht hfull (by simp) (by simp [State.nextIndex]) (by simp)
  have hkept : ∀ j ∈ s.pendingSlots, (s.setSlot s.head b).slotByte j = s.slotByte j := fun j hj =>
    s.slotByte_setSlot_other b fun e => s.head_notMem_pendingSlots hh ht (e ▸ hj)
  simpa [State.pending, hslots] using hkept

/-- The end of a P-KICK leaves the ring. -/
@[simp] theorem State.pending_endKick (s : State) (p : Producer) : (s.endKick p).pending = s.pending := by
  obtain ⟨m, l, o, -, e⟩ := s.endKick_writes p
  rw [e]
  rfl

theorem kick_fifoStep (hh : s.head < s.cfg.N) (ht : s.tail < s.cfg.N) (h : kick s = .next t) : FifoStep s t [] := by
  obtain ⟨-, he, -, rfl⟩ | ⟨-, rfl⟩ := kick_next h
  · exact .inr ⟨_, State.pending_takeNext hh ht he _, rfl, rfl⟩
  · exact .inl ⟨rfl, by simp⟩

/-- No operation but RST touches the buffered bytes, except a TXC that sends the first. -/
theorem Ran.fifoStep (h : Ran s i t) (hi : i ≠ .rst) (hh : s.head < s.cfg.N) (ht : s.tail < s.cfg.N) :
    FifoStep s t [] := by
  cases h with
  | rst => exact absurd rfl hi
  | handsOff he => exact .inr ⟨_, State.pending_takeNext hh ht he _, rfl, rfl⟩
  | _ => exact .inl ⟨rfl, (List.append_nil _).symm⟩

theorem State.writes_of_nextWrite {p : Producer} {b : Byte} {bs : List Byte} (h : s.nextWrite = some (p, b :: bs)) :
    s.writes = [b] := by
  simp [State.writes, h]

theorem State.writes_of_none (h : s.nextWrite = none) : s.writes = [] := by
  simp [State.writes, h]

theorem Taken.fifoStep (h : Taken s t) (hring : s.RingOk) (hr : s.runs ≠ some .rst) : FifoStep s t s.writes := by
  obtain ⟨hh, ht, -⟩ := hring
  cases h with
  | rests hwrite _ _ cs d is vs rs _ e =>
    rw [State.writes_of_none hwrite, e]
    exact .inl ⟨rfl, (List.append_nil _).symm⟩
  | writes p b bs ts hwrite _ _ cs d is _ _ hfree e =>
    rw [State.writes_of_nextWrite hwrite, e]
    have hfull : s.full = false := (State.enqHold_none.1 hfree).2
    exact .inl ⟨by simp, State.pending_enqueue (s := s.movedOn cs d is) hh ht hfull p b bs ts⟩
  | kicks p hwrite _ _ cs d is _ v hv e =>
    rw [State.writes_of_none hwrite, e]
    have hkick : FifoStep s v [] := kick_fifoStep (s := s.movedOn cs d is) hh ht hv
    simpa [FifoStep] using hkick
  | runs i hwrite _ hruns cs d is _ hexec =>
    rw [State.writes_of_none hwrite]
    exact (exec_ran hexec).fifoStep (fun e => hr (e ▸ hruns)) hh ht

/-- Settles O46: each kind of step is a step of the FIFO. -/
theorem byteLeavesOnceInOrder : Obligations.ByteLeavesOnceInOrder := by
  intro s t hinv h hr
  obtain ⟨-, hring, -⟩ := hinv
  exact (step_taken h).fifoStep hring hr

/-! ## Several steps -/

theorem enqLog_succ (h : step s = .next u) : enqLog (k + 1) s = s.writes ++ enqLog k u := by
  simp [enqLog, h]

theorem commandLog_succ (h : step s = .next u) : commandLog (k + 1) s = s.starts ++ commandLog k u := by
  simp [commandLog, h]

/-- The first of several steps: it goes on, it runs only what is allowed, and the rest is a run from where it ends. -/
theorem firstStep_of_run {ok : Instr → Bool} (hok : runsOnly ok (k + 1) s = true)
    (hrun : runSteps (k + 1) s = .next t) :
    ∃ u, step s = .next u ∧ (∀ i, s.runs = some i → ok i = true) ∧ runsOnly ok k u = true ∧
      runSteps k u = .next t := by
  obtain ⟨u, hu, hrest⟩ := andThen_next.1 hrun
  rw [runsOnly, Bool.and_eq_true, hu] at hok
  obtain ⟨hfirst, hlast⟩ := hok
  exact ⟨u, hu, fun i hi => by simpa [hi] using hfirst, hlast, hrest⟩

/-- Settles O47, step by step: each puts what it writes behind all that is sent or buffered. -/
theorem fifoExactlyOnce : Obligations.FifoExactlyOnce := by
  intro k
  induction k with
  | zero =>
    intro s t _ _ hrun
    obtain rfl : s = t := by simpa [runSteps] using hrun
    simp [enqLog]
  | succ k ih =>
    intro s t hinv hok hrun
    obtain ⟨u, hu, hfirst, hokRest, hrest⟩ := firstStep_of_run hok hrun
    have hr : s.runs ≠ some .rst := fun e => absurd (hfirst .rst e) (by simp [notRst])
    have hstep : FifoStep s u s.writes := byteLeavesOnceInOrder s u hinv hu hr
    calc t.wire ++ t.pending
        = u.wire ++ u.pending ++ enqLog k u := ih u t (everyStepKeepsInvariant s u hinv hu) hokRest hrest
      _ = s.wire ++ s.pending ++ s.writes ++ enqLog k u := by rw [hstep.append_eq]
      _ = s.wire ++ s.pending ++ enqLog (k + 1) s := by rw [enqLog_succ hu, List.append_assoc _ s.writes]

end Sys2Proof.Machine
end

section
/-! SUPPORT. The events on the wire (40_ring_buffer.md R115). The lock's owner has begun one transaction and owes the
rest of its bytes; every transaction not yet begun is a frame. So what was owed, with the frames of the events begun,
is what was written, with what is then owed. -/

namespace Sys2Proof.Machine

variable {s t u : State} {i : Instr} {p : Producer} {k : Nat}

/-- A producer the block does not have has no work. -/
theorem State.mem_producers_of_work_ne_nil (hlen : s.mon.length = s.cfg.G) (h : s.work p ≠ []) : p ∈ s.producers :=
  State.mem_producers_of_seq_ne_idle hlen fun e => h (by rw [State.work, e, Sequencer.idle])

/-! ## What each kind of step does to the transactions -/

/-- KICK is the consumer's: it leaves the producers, their lock and the block's sizes. -/
theorem kick_producers (h : kick s = .next t) :
    t.seq = s.seq ∧ t.owner = s.owner ∧ t.cfg = s.cfg ∧ t.mon.length = s.mon.length := by
  obtain ⟨-, -, -, rfl⟩ | ⟨-, rfl⟩ := kick_next h <;> exact ⟨rfl, rfl, rfl, rfl⟩

/-- P-ENQ takes the first byte off its producer's transaction and the lock for it. -/
theorem Taken.write_same (h : Taken s t) (hlen : s.mon.length = s.cfg.G) {b : Byte} {bs : List Byte}
    (hwrite : s.nextWrite = some (p, b :: bs)) :
    ∃ ts, s.work p = (b :: bs) :: ts ∧ t.work p = bs :: ts := by
  cases h with
  | writes q c cs ts hq _ _ pl d is _ hw _ e =>
    obtain ⟨rfl, rfl, rfl⟩ : p = q ∧ b = c ∧ bs = cs := by simpa using hwrite.symm.trans hq
    have hp : p ∈ s.producers := State.mem_producers_of_work_ne_nil hlen (by simp [hw])
    exact ⟨ts, hw, by rw [e, State.work, State.seq_publish_same ((s.movedOn pl d is).setSlot s.head b) _ _ hlen hp]⟩
  | rests hn | kicks _ hn | runs _ hn => simp [hn] at hwrite

/-- P-KICK at the end of a transaction drops it and frees the lock; before, it leaves both. -/
theorem Taken.kick_same (h : Taken s t) (hinv : s.Inv) (hkick : s.nextKick = some p) :
    s.owner = some p ∧
      ((∃ ts, s.work p = [] :: ts ∧ t.work p = ts ∧ t.owner = none) ∨
        ((∀ ts, s.work p ≠ [] :: ts) ∧ t.work p = s.work p ∧ t.owner = s.owner)) := by
  obtain ⟨⟨-, hlen⟩, -, ⟨hkicks, -⟩, -⟩ := hinv
  cases h with
  | kicks q _ hq _ cs d is hk u hu e =>
    obtain rfl : p = q := by simpa using hkick.symm.trans hq
    have hp : p ∈ s.producers := State.mem_producers_of_seq_ne_idle hlen fun e => by
      simp [State.kickp, e, Sequencer.idle] at hk
    obtain ⟨hseq, howner, hcfg, hmon⟩ := kick_producers hu
    have hwork : u.work p = s.work p := by simp [State.work, hseq]
    have hpu : p ∈ u.producers := by simpa [State.producers, hcfg] using hp
    refine ⟨hkicks p hp hk, ?_⟩
    rw [e, ← hwork]
    obtain ⟨ts, hw, hs, ho⟩ | ⟨hw, hs, ho⟩ := u.endKick_same (by rw [hmon, hcfg]; exact hlen) hpu
    · exact .inl ⟨ts, hw, by rw [State.work, hs], ho⟩
    · exact .inr ⟨hw, by rw [State.work, hs], ho.trans howner⟩
  | rests _ hn | writes _ _ _ _ _ hn | runs _ _ hn => simp [hn] at hkick

/-! ## What is begun and what is not -/

/-- The bytes still to be written of the transaction whose producer holds the lock. -/
def State.owed (s : State) : List Byte :=
  match s.owner with
  | none => []
  | some p => (s.work p).headD []

/-- The transactions of `p` of which no byte is written: all but the one the lock is held for. -/
def State.notBegun (s : State) (p : Producer) : List (List Byte) :=
  if s.owner = some p then (s.work p).tail else s.work p

/-- No byte of an ENQ is on its way: what is not begun are frames, and what is owed is at most a terminator. -/
def State.OnlyEvents (s : State) : Prop :=
  (∀ p, ∀ w ∈ s.notBegun p, ∃ c, w = frame c) ∧ (s.owed = [] ∨ s.owed = [lineFeed])

theorem State.owed_of_none (h : s.owner = none) : s.owed = [] := by
  simp [State.owed, h]

theorem State.owed_of_some (h : s.owner = some p) : s.owed = (s.work p).headD [] := by
  simp [State.owed, h]

theorem State.notBegun_of_owner (h : s.owner = some p) : s.notBegun p = (s.work p).tail := by
  simp [State.notBegun, h]

theorem State.notBegun_of_not_owner (h : s.owner ≠ some p) : s.notBegun p = s.work p := by
  simp [State.notBegun, h]

/-- What `p` has not begun moves only with its sequencer and its claim to the lock. -/
theorem State.notBegun_congr (hseq : t.seq p = s.seq p) (howner : t.owner = some p ↔ s.owner = some p) :
    t.notBegun p = s.notBegun p := by
  simp [State.notBegun, State.work, hseq, howner]

theorem State.owed_congr (howner : t.owner = s.owner) (hseq : ∀ p, s.owner = some p → t.seq p = s.seq p) :
    t.owed = s.owed := by
  cases ho : s.owner with
  | none => rw [State.owed_of_none ho, State.owed_of_none (howner.trans ho)]
  | some p => rw [State.owed_of_some ho, State.owed_of_some (howner.trans ho), State.work, hseq p ho, State.work]

/-! ## Operations give frames to idle producers -/

/-- The producers keep their transactions, but for idle ones that are given events. -/
def GivesFrames (s t : State) : Prop :=
  ∀ p, t.seq p = s.seq p ∨ s.busy p = false ∧ ∃ cs : List Command, t.work p = cs.map frame

theorem GivesFrames.of_seq_eq (h : GivesFrames u t) (hseq : u.seq = s.seq) : GivesFrames s t := by
  have hbusy (p : Producer) : u.busy p = s.busy p := by
    rw [State.busy, State.work, State.kickp, hseq]
    rfl
  exact fun p => by simpa [hseq, hbusy] using h p

theorem State.givesFrames_give (hlen : s.mon.length = s.cfg.G) (hp : p ∈ s.producers) (hidle : s.busy p = false)
    (cs : List Command) : GivesFrames s (s.give p (cs.map frame)) := by
  intro r
  by_cases hr : r = p
  · subst hr
    exact .inr ⟨hidle, cs, by rw [State.work, State.seq_give_same s _ hlen hp]⟩
  · exact .inl (State.seq_give_other _ _ _ hr)

/-- PCHG and TICK, of which the former also reads the port. -/
theorem Ran.givesFrames (h : Ran s i t) (hi : notRstOrEnq i = true) (hlen : s.mon.length = s.cfg.G) :
    GivesFrames s t := by
  have hread (g : BitVec 4) (v : Byte) (hg : g.toNat < s.cfg.G) (hidle : s.busy (.monitor g.toNat) = false)
      (cs : List Command) : GivesFrames s ((s.setCur g.toNat v).give (.monitor g.toNat) (cs.map frame)) := by
    have hp : .monitor g.toNat ∈ (s.setCur g.toNat v).producers := (State.mem_producers _).2 (.inr ⟨_, hg, rfl⟩)
    refine (State.givesFrames_give (by simpa using hlen) hp ?_ cs).of_seq_eq (funext (s.seq_setCur _ v))
    simpa [State.busy_eq_false_iff, State.work, State.kickp] using hidle
  cases h with
  | rst | enq => simp [notRstOrEnq] at hi
  | pchgSilent g v hg hidle => simpa [GivesFrames, State.work] using hread g v hg hidle []
  | pchgEvents g v hg hidle => exact hread g v hg hidle _
  | tickBeats hidle =>
    exact (State.givesFrames_give (s := { s with hb := 0 }) (p := .main) hlen (by simp [State.producers]) hidle
      [.heartbeat]).of_seq_eq (funext fun p => by cases p <;> rfl)
  | _ => exact fun p => .inl (by cases p <;> rfl)

/-- A step that is no producer's leaves the lock and what is being written. -/
theorem Taken.givesFrames (h : Taken s t) (hlen : s.mon.length = s.cfg.G) (hwrite : s.nextWrite = none)
    (hkick : s.nextKick = none) (hok : ∀ i, s.runs = some i → notRstOrEnq i = true) :
    t.owner = s.owner ∧ GivesFrames s t := by
  cases h with
  | rests _ _ _ cs d is vs rs _ e =>
    rw [e]
    exact ⟨rfl, fun p => .inl (by cases p <;> rfl)⟩
  | writes _ _ _ _ hw => simp [hwrite] at hw
  | kicks _ _ hk => simp [hkick] at hk
  | runs i _ _ hruns cs d is _ hexec =>
    have hran := exec_ran hexec
    have hi := hok i hruns
    have hne : i ≠ .rst := by
      rintro rfl
      simp [notRstOrEnq] at hi
    obtain ⟨-, -, howner⟩ := hran.ring_eq hne
    exact ⟨howner, (hran.givesFrames hi hlen).of_seq_eq (s.seq_movedOn cs d is)⟩

theorem State.Inv.busy_of_owner (h : s.Inv) (ho : s.owner = some p) : s.busy p = true := by
  obtain ⟨-, -, ⟨-, howns⟩, -⟩ := h
  obtain ⟨-, hw⟩ := howns p (Option.mem_toList.2 ho)
  simp [State.busy, hw]

theorem GivesFrames.owed_eq (h : GivesFrames s t) (hinv : s.Inv) (howner : t.owner = s.owner) : t.owed = s.owed :=
  State.owed_congr howner fun p ho => (h p).resolve_right fun ⟨hidle, _⟩ => by simp [hinv.busy_of_owner ho] at hidle

theorem GivesFrames.onlyEvents (h : GivesFrames s t) (hinv : s.Inv) (howner : t.owner = s.owner)
    (hev : s.OnlyEvents) : t.OnlyEvents := by
  obtain ⟨hframes, howed⟩ := hev
  refine ⟨fun p w hw => ?_, by rwa [h.owed_eq hinv howner]⟩
  obtain hseq | ⟨hidle, cs, hwork⟩ := h p
  · exact hframes p w (by rwa [State.notBegun_congr hseq (by rw [howner])] at hw)
  · have hfree : t.owner ≠ some p := fun ho => by simp [hinv.busy_of_owner (howner ▸ ho)] at hidle
    rw [State.notBegun_of_not_owner hfree, hwork, List.mem_map] at hw
    obtain ⟨c, -, rfl⟩ := hw
    exact ⟨c, rfl⟩

/-! ## The steps -/

theorem State.starts_of_none (h : s.nextWrite = none) : s.starts = [] := by
  simp [State.starts, h]

theorem State.starts_of_owner {bs : List Byte} (h : s.nextWrite = some (p, bs)) (ho : s.owner = some p) :
    s.starts = [] := by
  simp [State.starts, h, ho]

theorem commandOfFrame_frame (c : Command) : commandOfFrame (frame c) = some c := by
  cases c <;> rfl

theorem State.starts_of_frame {c : Command} (h : s.nextWrite = some (p, frame c)) (ho : s.owner = none) :
    s.starts = [c] := by
  simp [State.starts, h, ho, commandOfFrame_frame]

/-- The first byte of a transaction, written with the lock free, begins an event; the next one ends it. -/
theorem State.OnlyEvents.write_cases (hev : s.OnlyEvents) {b : Byte} {bs : List Byte} {ts : List (List Byte)}
    (hw : s.work p = (b :: bs) :: ts) (ho : s.owner = none ∨ s.owner = some p) :
    (s.owner = none ∧ s.owed = [] ∧ s.notBegun p = (b :: bs) :: ts ∧ ∃ c, b = enc c ∧ bs = [lineFeed]) ∨
      (s.owner = some p ∧ s.owed = b :: bs ∧ s.notBegun p = ts ∧ bs = []) := by
  obtain ⟨hframes, howed⟩ := hev
  obtain ho | ho := ho
  · have hnot : s.notBegun p = (b :: bs) :: ts := (State.notBegun_of_not_owner (by simp [ho])).trans hw
    obtain ⟨c, hc⟩ := hframes p (b :: bs) (by simp [hnot])
    obtain ⟨rfl, rfl⟩ := List.cons.inj hc
    exact .inl ⟨ho, State.owed_of_none ho, hnot, c, rfl, rfl⟩
  · have howes : s.owed = b :: bs := by simp [State.owed_of_some ho, hw]
    have hend : b = lineFeed ∧ bs = [] := by simpa [howes] using howed
    exact .inr ⟨ho, howes, by simp [State.notBegun_of_owner ho, hw], hend.2⟩

/-- The bytes owed and the frames of the event begun are the byte written and the bytes then owed, and still nothing
but events is on its way. -/
abbrev EventStep (s t : State) : Prop :=
  s.owed ++ (s.starts.map frame).flatten = s.writes ++ t.owed ∧ t.OnlyEvents

/-- A step that writes nothing and leaves what is owed. -/
theorem eventStep_of_owed_eq (hwrite : s.nextWrite = none) (howed : t.owed = s.owed) (hev : t.OnlyEvents) :
    EventStep s t :=
  ⟨by simp [State.starts_of_none hwrite, State.writes_of_none hwrite, howed], hev⟩

/-- Where only `p` moves on and no other producer has the lock, only what `p` has not begun can differ. -/
theorem State.OnlyEvents.of_producer (hev : s.OnlyEvents) (hseq : ∀ r, r ≠ p → t.seq r = s.seq r)
    (hs : s.owner = none ∨ s.owner = some p) (ht : t.owner = none ∨ t.owner = some p)
    (hp : t.notBegun p ⊆ s.notBegun p) (howed : t.owed = [] ∨ t.owed = [lineFeed]) : t.OnlyEvents := by
  refine ⟨fun r w hw => ?_, howed⟩
  by_cases hr : r = p
  · subst hr
    exact hev.1 r w (hp hw)
  · have hfree {o : Option Producer} (ho : o = none ∨ o = some p) : o ≠ some r := by
      obtain rfl | rfl := ho <;> simp [Ne.symm hr]
    exact hev.1 r w (State.notBegun_congr (hseq r hr) (iff_of_false (hfree ht) (hfree hs)) ▸ hw)

theorem Taken.eventStep_of_write (h : Taken s t) (hlen : s.mon.length = s.cfg.G) (hev : s.OnlyEvents) {b : Byte}
    {bs : List Byte} (hwrite : s.nextWrite = some (p, b :: bs)) (hkick : s.nextKick = none) (hruns : s.runs = none) :
    EventStep s t := by
  obtain ⟨ts, hw, hw'⟩ := h.write_same hlen hwrite
  obtain ⟨hfree, howner⟩ := h.owner_of_write hwrite
  have howes : t.owed = bs := by simp [State.owed_of_some howner, hw']
  have hnot : t.notBegun p = ts := by simp [State.notBegun_of_owner howner, hw']
  have hseq (r : Producer) (hr : r ≠ p) : t.seq r = s.seq r :=
    h.seq_eq (by simp [hwrite, Ne.symm hr]) (by simp [hkick]) (by simp [hruns]) (by simp [hruns])
  have hwrites := State.writes_of_nextWrite hwrite
  obtain ⟨ho, hs, hnot', c, rfl, rfl⟩ | ⟨ho, hs, hnot', rfl⟩ := hev.write_cases hw hfree
  · refine ⟨by simp [hs, hwrites, howes, State.starts_of_frame hwrite ho, frame], ?_⟩
    exact hev.of_producer hseq hfree (.inr howner) (by simp [hnot, hnot']) (.inr howes)
  · refine ⟨by simp [hs, hwrites, howes, State.starts_of_owner hwrite ho], ?_⟩
    exact hev.of_producer hseq hfree (.inr howner) (by simp [hnot, hnot']) (.inl howes)

/-- P-KICK ends a transaction that owes nothing more, or leaves it. -/
theorem Taken.eventStep_of_kick (h : Taken s t) (hinv : s.Inv) (hev : s.OnlyEvents) (hwrite : s.nextWrite = none)
    (hkick : s.nextKick = some p) (hruns : s.runs = none) : EventStep s t := by
  have hseq (r : Producer) (hr : r ≠ p) : t.seq r = s.seq r :=
    h.seq_eq (by simp [hwrite]) (by simp [hkick, Ne.symm hr]) (by simp [hruns]) (by simp [hruns])
  obtain ⟨ho, ⟨ts, hw, hw', ho'⟩ | ⟨-, hw', ho'⟩⟩ := h.kick_same hinv hkick
  · have howes : s.owed = [] := by simp [State.owed_of_some ho, hw]
    have hnot : t.notBegun p = s.notBegun p := by
      rw [State.notBegun_of_not_owner (by simp [ho']), State.notBegun_of_owner ho, hw, hw', List.tail_cons]
    have howes' : t.owed = [] := State.owed_of_none ho'
    exact eventStep_of_owed_eq hwrite (howes'.trans howes.symm)
      (hev.of_producer hseq (.inr ho) (.inl ho') (by simp [hnot]) (.inl howes'))
  · have ho' := ho'.trans ho
    have howes : t.owed = s.owed := by rw [State.owed_of_some ho', State.owed_of_some ho, hw']
    have hnot : t.notBegun p = s.notBegun p := by
      rw [State.notBegun_of_owner ho', State.notBegun_of_owner ho, hw']
    exact eventStep_of_owed_eq hwrite howes
      (hev.of_producer hseq (.inr ho) (.inr ho') (by simp [hnot]) (howes ▸ hev.2))

theorem Taken.eventStep_of_other (h : Taken s t) (hinv : s.Inv) (hev : s.OnlyEvents) (hwrite : s.nextWrite = none)
    (hkick : s.nextKick = none) (hok : ∀ i, s.runs = some i → notRstOrEnq i = true) : EventStep s t := by
  have ⟨⟨_, hlen⟩, _⟩ := hinv
  obtain ⟨howner, hgives⟩ := h.givesFrames hlen hwrite hkick hok
  exact eventStep_of_owed_eq hwrite (hgives.owed_eq hinv howner) (hgives.onlyEvents hinv howner hev)

theorem Taken.eventStep (h : Taken s t) (hinv : s.Inv) (hev : s.OnlyEvents)
    (hok : ∀ i, s.runs = some i → notRstOrEnq i = true) : EventStep s t := by
  have ⟨⟨_, hlen⟩, _⟩ := hinv
  have taken := h
  cases taken with
  | rests hwrite hkick => exact h.eventStep_of_other hinv hev hwrite hkick hok
  | writes p b bs _ hwrite hkick hruns => exact h.eventStep_of_write hlen hev hwrite hkick hruns
  | kicks p hwrite hkick hruns => exact h.eventStep_of_kick hinv hev hwrite hkick hruns
  | runs _ hwrite hkick => exact h.eventStep_of_other hinv hev hwrite hkick hok

/-! ## The runs -/

/-- The conservation law of a run: what was owed and the frames of the events begun are what was written and what is
then owed. -/
theorem owed_append_commandLog (k : Nat) (s t : State) (hinv : s.Inv) (hev : s.OnlyEvents)
    (hok : runsOnly notRstOrEnq k s = true) (hrun : runSteps k s = .next t) :
    s.owed ++ ((commandLog k s).map frame).flatten = enqLog k s ++ t.owed ∧ t.OnlyEvents := by
  induction k generalizing s with
  | zero =>
    obtain rfl : s = t := by simpa [runSteps] using hrun
    simpa [enqLog, commandLog] using hev
  | succ k ih =>
    obtain ⟨u, hu, hfirst, hokRest, hrest⟩ := firstStep_of_run hok hrun
    obtain ⟨hstep, hevents⟩ := (step_taken hu).eventStep hinv hev hfirst
    obtain ⟨hlaw, hend⟩ := ih u (everyStepKeepsInvariant s u hinv hu) hevents hokRest hrest
    refine ⟨?_, hend⟩
    calc s.owed ++ ((commandLog (k + 1) s).map frame).flatten
        = s.owed ++ (s.starts.map frame).flatten ++ ((commandLog k u).map frame).flatten := by
          simp [commandLog_succ hu]
      _ = s.writes ++ (u.owed ++ ((commandLog k u).map frame).flatten) := by rw [hstep, List.append_assoc]
      _ = enqLog (k + 1) s ++ t.owed := by rw [hlaw, enqLog_succ hu, List.append_assoc]

theorem splitLines_ne_nil (bs : List Byte) : splitLines bs ≠ [] := by
  cases bs with
  | nil => simp [splitLines]
  | cons b bs =>
    rw [splitLines]
    split
    · simp
    · split <;> simp

/-- A terminator at the end of the wire ends a line that a reader has already seen. -/
theorem splitLines_append_lineFeed (bs : List Byte) : splitLines (bs ++ [lineFeed]) = splitLines bs ++ [[]] := by
  induction bs with
  | nil => rfl
  | cons b bs ih =>
    obtain ⟨l, ls, hls⟩ := List.exists_cons_of_ne_nil (splitLines_ne_nil bs)
    simp only [List.cons_append, splitLines, ih, hls]
    split <;> simp

theorem readEvents_append_lineFeed (bs : List Byte) : readEvents (bs ++ [lineFeed]) = readEvents bs := by
  simp [readEvents, splitLines_append_lineFeed, eventOfPiece]

theorem runsOnly_mono {ok ok' : Instr → Bool} (hle : ∀ i, ok i = true → ok' i = true) {k : Nat} {s : State}
    (h : runsOnly ok k s = true) : runsOnly ok' k s = true := by
  induction k generalizing s with
  | zero => rfl
  | succ k ih =>
    rw [runsOnly, Bool.and_eq_true] at h ⊢
    obtain ⟨hfirst, hrest⟩ := h
    constructor
    · cases hr : s.runs with
      | none => rfl
      | some i => exact hle i (by simpa [hr] using hfirst)
    · cases hs : step s with
      | next u => exact ih (by simpa [hs] using hrest)
      | _ => rfl

theorem notRst_of_notRstOrEnq (i : Instr) (h : notRstOrEnq i = true) : notRst i = true := by
  cases i with
  | rst => exact h
  | _ => rfl

theorem runSteps_wire_prefix (k : Nat) (s t : State) (hrun : runSteps k s = .next t) : s.wire <+: t.wire := by
  induction k generalizing s with
  | zero =>
    obtain rfl : s = t := by simpa [runSteps] using hrun
    exact List.prefix_rfl
  | succ k ih =>
    obtain ⟨u, hu, hrest⟩ := andThen_next.1 hrun
    obtain ⟨-, -, hwire⟩ := (step_taken hu).recordsGrow
    exact hwire.trans (ih u hrest)

theorem State.Inv.owner_of_quiet (hinv : s.Inv) (hquiet : s.Quiet) : s.owner = none := by
  obtain ⟨-, hidle⟩ := hquiet
  cases ho : s.owner with
  | none => rfl
  | some p =>
    have ⟨_, _, ⟨_, howns⟩, _⟩ := hinv
    obtain ⟨hp, -⟩ := howns p (Option.mem_toList.2 ho)
    exact absurd (hidle p hp) (by simp [hinv.busy_of_owner ho])

/-- In a quiet state nothing is on its way. -/
theorem State.Inv.onlyEvents_of_quiet (hinv : s.Inv) (hquiet : s.Quiet) : s.OnlyEvents := by
  have ho : s.owner = none := hinv.owner_of_quiet hquiet
  have ⟨⟨_, hlen⟩, _⟩ := hinv
  refine ⟨fun p w hw => ?_, .inl (State.owed_of_none ho)⟩
  rw [State.notBegun_of_not_owner (by simp [ho])] at hw
  have hp : p ∈ s.producers := State.mem_producers_of_work_ne_nil hlen (List.ne_nil_of_mem hw)
  obtain ⟨hwork, -⟩ := State.busy_eq_false_iff.1 (hquiet.2 p hp)
  simp [hwork] at hw

/-- Settles O55: what is sent and buffered since is what was written (R108), and that is the frames of the events
begun but for a terminator still owed, which a reader does not miss. -/
theorem wireReadsBackEvents : Obligations.WireReadsBackEvents := by
  intro k s t hinv hquiet hok hrun
  have hevents : s.OnlyEvents := hinv.onlyEvents_of_quiet hquiet
  have howed : s.owed = [] := State.owed_of_none (hinv.owner_of_quiet hquiet)
  have hsent : t.wire.drop s.wire.length ++ t.pending = enqLog k s := by
    have ⟨_, ⟨hh, ht, _⟩, _⟩ := hinv
    have hfifo := fifoExactlyOnce k s t hinv (runsOnly_mono notRst_of_notRstOrEnq hok) hrun
    rw [(State.pending_eq_nil_iff hh ht).2 hquiet.1, List.append_nil] at hfifo
    rw [← List.drop_append_of_le_length (runSteps_wire_prefix k s t hrun).length_le, hfifo, List.drop_left]
  obtain ⟨hlaw, -, hend⟩ := owed_append_commandLog k s t hinv hevents hok hrun
  rw [howed, List.nil_append] at hlaw
  rw [hsent, ← framesReadBack (commandLog k s), hlaw]
  obtain he | he := hend <;> simp [he, readEvents_append_lineFeed]

end Sys2Proof.Machine
end

section
/-! SUPPORT. The transmitter and the lock over one step: who hands a byte over (40_ring_buffer.md R109), who starts a
buffered one (R110), what a drain sends (R111), and how long the lock is held (R101, R113). -/

namespace Sys2Proof.Machine

variable {s t : State} {i : Instr} {p : Producer}

/-- No operation but TXC hands a byte over, and that only with one in flight. -/
theorem wire_of_exec (h : exec i s = .next t) :
    t.wire = s.wire ∨
      ∃ b, t.wire = s.wire ++ [b] ∧ t.sending = true ∧ s.sending = true ∧ i = .txc := by
  by_cases hi : i = .txc
  · subst hi
    obtain ⟨-, rfl⟩ | ⟨-, -, rfl⟩ | ⟨-, hs, -, -, rfl⟩ | ⟨-, -, -, rfl⟩ := execTxc_next h
    · exact .inl rfl
    · exact .inl rfl
    · exact .inr ⟨_, rfl, rfl, hs, rfl⟩
    · exact .inl rfl
  · cases exec_ran h with
    | spurious | handsOff | stops => exact absurd rfl hi
    | _ => exact .inl rfl

/-- Settles O48: a KICK hands over only with nothing in flight, a TXC only with a byte in flight, and no other step
does. -/
theorem noDoubleStart : Obligations.NoDoubleStart := by
  intro s t h
  cases step_taken h with
  | rests _ _ _ cs d is vs rs _ e => exact .inl (by rw [e])
  | writes p b bs ts _ _ _ cs d is _ _ _ e => exact .inl (by simp [e])
  | kicks p _ hkick _ cs d is _ u hu e =>
    obtain ⟨hs, -, -, rfl⟩ | ⟨-, rfl⟩ := kick_next hu
    · exact .inr ⟨_, by simp [e]; rfl, by simp [e], .inl ⟨hs, by simp [hkick]⟩⟩
    · exact .inl (by simp [e])
  | runs i _ _ hruns cs d is _ hexec =>
    obtain hw | ⟨b, hw, ht, hs, rfl⟩ := wire_of_exec hexec
    · exact .inl hw
    · exact .inr ⟨b, hw, ht, .inr ⟨hs, hruns⟩⟩

theorem kick_of_idle (hs : s.sending = false) (he : s.empty = false) (ht : s.tail < s.cfg.N) :
    kick s = .next (s.takeNext (s.slotByte s.tail)) := by
  rw [kick, if_pos ⟨hs, he⟩, handOff_of_tail_lt ht]

theorem producerStep_of_kickp (hk : s.kickp p = true) : producerStep p s = pKick p s := by
  rw [producerStep, if_pos hk]

/-- Settles O49: the invariant names a producer that owes a KICK, and its KICK finds nothing in flight. -/
theorem bufferedByteStartsWithoutTrigger : Obligations.BufferedByteStartsWithoutTrigger := by
  intro s hinv hs hne
  obtain ⟨-, ⟨hh, ht, -⟩, -, hstart, -⟩ := hinv
  obtain ⟨p, hp, hk⟩ := hstart hs hne
  have he : s.empty = false := State.empty_eq_false_iff.2 hne
  have hstep : producerStep p s = .next ((s.takeNext (s.slotByte s.tail)).endKick p) := by
    rw [producerStep_of_kickp hk]
    exact pKick_next.2 ⟨_, kick_of_idle hs he ht, rfl⟩
  have hpending := State.pending_takeNext hh ht he (s.slotByte s.tail)
  exact ⟨p, hp, hk, _, _, _, hstep, hpending, by simp, by simp⟩

theorem execTxc_of_empty (hr : s.resetDone = true) (hs : s.sending = true) (he : s.empty = true) :
    execTxc s = .next { s with sending := false } := by
  simp [execTxc, transmitComplete, hr, hs, he]

/-- The drain takes the buffered bytes one by one, and its last TXC finds none. -/
theorem drain_of_pending (bs : List Byte) (s : State) (hh : s.head < s.cfg.N) (ht : s.tail < s.cfg.N)
    (hr : s.resetDone = true) (hs : s.sending = true) (hp : s.pending = bs) :
    ∃ t, drain (bs.length + 1) s = .next t ∧ t.wire = s.wire ++ bs ∧ t.sending = false ∧ t.empty = true ∧
      t.faults = s.faults := by
  induction bs generalizing s with
  | nil =>
    have he : s.empty = true := State.empty_iff.2 ((State.pending_eq_nil_iff hh ht).1 hp)
    have htxc : exec .txc s = .next { s with sending := false } := execTxc_of_empty hr hs he
    exact ⟨{ s with sending := false }, by simp [drain, htxc, andThen], by simp, rfl, he, rfl⟩
  | cons b bs ih =>
    have he : s.empty = false := State.empty_eq_false_iff.2 fun e => by
      simp [(State.pending_eq_nil_iff hh ht).2 e] at hp
    obtain ⟨hb, hbs⟩ : b = s.slotByte s.tail ∧ bs = (s.takeNext (s.slotByte s.tail)).pending :=
      List.cons.inj (hp.symm.trans (State.pending_takeNext hh ht he _))
    have htxc : exec .txc s = .next (s.takeNext (s.slotByte s.tail)) := execTxc_of_nonempty hr hs he ht
    obtain ⟨t, hdrain, hwire, hrest⟩ :=
      ih (s.takeNext (s.slotByte s.tail)) hh (State.nextIndex_lt ht) hr rfl hbs.symm
    refine ⟨t, ?_, by simpa [← hb] using hwire, hrest⟩
    rw [List.length_cons, drain, htxc]
    exact hdrain

/-- Settles O52: `count` is the number of the buffered bytes. -/
theorem drainSendsEveryBufferedByte : Obligations.DrainSendsEveryBufferedByte := by
  intro s hinv hr hs
  obtain ⟨-, hlength, -⟩ := ringCapacity s hinv
  have ⟨_, ⟨hh, ht, _⟩, _⟩ := hinv
  rw [← hlength]
  exact drain_of_pending s.pending s hh ht hr hs rfl

/-- Settles O54: the owner's P-KICK at the end of its transaction is the only step but RST that frees the lock. -/
theorem lockHeldToEndOfTransaction : Obligations.LockHeldToEndOfTransaction := by
  intro s t hinv h
  have taken := step_taken h
  refine ⟨fun p bs => taken.owner_of_write, fun q hq => ?_⟩
  by_cases hr : s.runs = some .rst
  · exact .inr (.inl hr)
  cases hw : s.nextWrite with
  | some w =>
    obtain ⟨p, bs⟩ := w
    obtain ⟨hfree, ht⟩ := taken.owner_of_write hw
    obtain rfl : q = p := by simpa [hq] using hfree
    exact .inl ht
  | none =>
    cases hk : s.nextKick with
    | none => exact .inl ((taken.owner_eq hw hr).elim (·.trans hq) fun ⟨hkick, _⟩ => by simp [hk] at hkick)
    | some p =>
      obtain ⟨ho, hcases⟩ := taken.kick_same hinv hk
      obtain rfl : q = p := by simpa [hq] using ho
      obtain ⟨ts, hwork, -, ht⟩ | ⟨-, -, ht⟩ := hcases
      · exact .inr (.inr ⟨rfl, ⟨ts, hwork⟩, ht⟩)
      · exact .inl (ht.trans hq)

end Sys2Proof.Machine
end

section
/-! SUPPORT. What each step of the ring does and leaves (40_ring_buffer.md R102 to R106), outcome by outcome. -/

namespace Sys2Proof.Machine

variable {s t : State} {p : Producer}

/-! ## ENQ -/

/-- Settles O26: after the first RST ENQ is held or accepted. -/
theorem enqResult : Obligations.EnqResult := by
  intro b s hr
  obtain ⟨hn, -⟩ | ⟨-, hbusy, e⟩ | ⟨-, hidle, e⟩ := execEnq_cases b s
  · exact absurd (hn.symm.trans hr) (by simp)
  · exact ⟨fun hidle => absurd (hbusy.symm.trans hidle) (by simp), fun _ => e⟩
  · refine ⟨fun _ => ⟨_, e, rfl, ?_, rfl⟩, fun hbusy => absurd (hbusy.symm.trans hidle) (by simp)⟩
    exact (State.busy_eq_false_iff.1 hidle).2

/-- ENQ writes M's work, or, before the first RST, the marks. -/
theorem execEnq_writes {b : Byte} (h : execEnq b s = .next t) :
    ∃ ts rs, t = { s with main := ⟨ts, s.main.kick⟩, refusals := rs } ∧ (s.resetDone = true → rs = s.refusals) := by
  obtain ⟨hr, e⟩ | ⟨-, -, e⟩ | ⟨-, -, e⟩ := execEnq_cases b s <;> cases e.symm.trans h
  · exact ⟨s.main.work, (s.mark .noReset).refusals, rfl, fun hdone => by simp [hr] at hdone⟩
  · exact ⟨s.main.work, s.refusals, rfl, fun _ => rfl⟩
  · exact ⟨[[b]], s.refusals, rfl, fun _ => rfl⟩

/-- Settles O27, by what ENQ writes. -/
theorem enqFrame : Obligations.EnqFrame := by
  intro b s t h
  obtain ⟨ts, rs, rfl, hmarks⟩ := execEnq_writes h
  exact ⟨⟨rfl, rfl, rfl, fun _ => ⟨rfl, rfl, rfl⟩⟩, fun _ => ⟨rfl, rfl, rfl⟩,
    ⟨rfl, rfl, rfl, rfl, rfl, rfl, rfl, rfl⟩, rfl, rfl, rfl, rfl, rfl, hmarks⟩

/-! ## TXC -/

/-- Settles O39, outcome by outcome of R105. -/
theorem txcResult : Obligations.TxcResult := by
  refine fun s hr => ⟨fun hs => ⟨s.recordFault .spuriousTxc 0x5000, ?_, rfl, fun r => mem_addOnce⟩,
    fun hs hne ht => execTxc_of_nonempty hr hs (State.empty_eq_false_iff.2 hne) ht,
    fun hs he => execTxc_of_empty hr hs (State.empty_iff.2 he)⟩
  simp [exec, execTxc, raiseFault, hr, hs]

/-- TXC writes a record, or, with a byte in flight, the consumer's side of the ring. -/
theorem execTxc_writes (h : execTxc s = .next t) :
    ∃ k x w fs rs, t = { s with tail := k, sending := x, wire := w, faults := fs, refusals := rs } ∧
      (s.sending = false → k = s.tail ∧ x = s.sending ∧ w = s.wire) ∧ (s.sending = true → fs = s.faults) ∧
      (s.resetDone = true → rs = s.refusals) := by
  obtain ⟨hr, e⟩ | ⟨-, hs, e⟩ | ⟨-, hs, -, -, e⟩ | ⟨-, hs, -, e⟩ := execTxc_next h
  · exact ⟨_, _, _, _, _, e, fun _ => ⟨rfl, rfl, rfl⟩, fun _ => rfl, fun hdone => by simp [hr] at hdone⟩
  · exact ⟨_, _, _, _, _, e, fun _ => ⟨rfl, rfl, rfl⟩, fun hsent => by simp [hs] at hsent, fun _ => rfl⟩
  · exact ⟨_, _, _, _, _, e, fun hn => by simp [hs] at hn, fun _ => rfl, fun _ => rfl⟩
  · exact ⟨_, _, _, _, _, e, fun hn => by simp [hs] at hn, fun _ => rfl, fun _ => rfl⟩

/-- Settles O40, by what TXC writes. -/
theorem txcFrame : Obligations.TxcFrame := by
  intro s t h
  obtain ⟨k, x, w, fs, rs, rfl, hidle, hfaults, hmarks⟩ := execTxc_writes h
  exact ⟨rfl, fun _ => ⟨rfl, rfl⟩, fun p => by cases p <;> rfl, fun _ => ⟨rfl, rfl, rfl⟩,
    ⟨rfl, rfl, rfl, rfl, rfl, rfl, rfl, rfl⟩, rfl, rfl, hidle, hfaults, hmarks⟩

/-! ## P-ENQ -/

theorem producerStep_of_byte {b : Byte} {bs : List Byte} {ts : List (List Byte)} (hk : s.kickp p = false)
    (hw : s.work p = (b :: bs) :: ts) : producerStep p s = pEnq p b bs ts s := by
  simp [producerStep, hk, hw]

theorem pEnq_of_held (b : Byte) (bs : List Byte) (ts : List (List Byte)) (h : s.enqHold p ≠ none) :
    pEnq p b bs ts s = .next s := by
  obtain ⟨r, hr⟩ := Option.ne_none_iff_exists'.1 h
  simp [pEnq, hr, hold]

theorem pEnq_of_free (b : Byte) (bs : List Byte) (ts : List (List Byte)) (h : s.enqHold p = none)
    (hh : s.head < s.cfg.N) : pEnq p b bs ts s = .next ((s.setSlot s.head b).publish p bs ts) := by
  simp [pEnq, h, State.memWrite_of_lt b hh]

@[simp] theorem State.seq_setSlot (s : State) (j : Nat) (b : Byte) (r : Producer) :
    (s.setSlot j b).seq r = s.seq r := by
  cases r <;> rfl

theorem State.sameInputs_publish (s : State) (p : Producer) (bs : List Byte) (ts : List (List Byte)) :
    SameInputs s (s.publish p bs ts) := by
  simp [SameInputs, State.publish]

/-- `MemRead` sees the slot's content, wherever there is such a slot. -/
theorem State.memRead_congr {i : Nat} (hcfg : t.cfg = s.cfg) (hslot : t.slotByte i = s.slotByte i) :
    t.memRead i = s.memRead i := by
  rw [State.memRead, hcfg, hslot, State.memRead]

/-- Settles O42: the lock or a full ring holds P-ENQ; else it writes the slot at `head` and publishes it. -/
theorem pEnqResult : Obligations.PEnqResult := by
  intro s p b bs ts hp hlen hk hw
  rw [producerStep_of_byte hk hw]
  refine ⟨fun ⟨hne, hother⟩ => pEnq_of_held b bs ts fun hn => ?_, fun _ hfull => pEnq_of_held b bs ts fun hn => ?_,
    fun hfree hroom hh => ?_⟩
  · exact (State.enqHold_none.1 hn).1.elim hne hother
  · exact State.full_eq_false_iff.1 (State.enqHold_none.1 hn).2 hfull
  · have hn : s.enqHold p = none := State.enqHold_none.2 ⟨hfree, State.full_eq_false_iff.2 hroom⟩
    have hsame : ((s.setSlot s.head b).publish p bs ts).seq p = ⟨bs :: ts, true⟩ :=
      State.seq_publish_same _ _ _ hlen hp
    have hslot (i : Nat) (hi : i ≠ s.head) :
        ((s.setSlot s.head b).publish p bs ts).slotByte i = s.slotByte i := by
      rw [State.slotByte_publish, s.slotByte_setSlot_other b hi]
    refine ⟨_, pEnq_of_free b bs ts hn hh, by simp, by simp [State.nextIndex], by simp, by rw [State.work, hsame],
      by rw [State.kickp, hsame], by simp, by simp, by simp, by simp, by simp, by simp, State.sameInputs_publish ..,
      fun i hi => ⟨State.memRead_congr (by simp) (hslot i hi), hslot i hi⟩, fun q hq => ?_, fun g => ?_⟩
    · rw [State.seq_publish_other _ _ _ hq, State.seq_setSlot]
    · rw [State.snap_publish, State.cur_publish]
      exact ⟨rfl, rfl⟩

/-! ## KICK and P-KICK -/

/-- Settles O43: KICK's two branches. -/
theorem kickResult : Obligations.KickResult := by
  refine fun s => ⟨fun hs hne ht => kick_of_idle hs (State.empty_eq_false_iff.2 hne) ht, fun hbusy => ?_⟩
  rw [kick, if_neg]
  rintro ⟨hs, he⟩
  obtain hsent | hempty := hbusy
  · simp [hs] at hsent
  · exact State.empty_eq_false_iff.1 he hempty

theorem State.sameInputs_endKick (s : State) (p : Producer) : SameInputs s (s.endKick p) := by
  obtain ⟨m, l, o, -, e⟩ := s.endKick_writes p
  rw [e]
  exact ⟨rfl, rfl, rfl, rfl, rfl, rfl, rfl, rfl⟩

@[simp] theorem State.slotByte_endKick (s : State) (p : Producer) (j : Nat) :
    (s.endKick p).slotByte j = s.slotByte j := by
  obtain ⟨m, l, o, -, e⟩ := s.endKick_writes p
  rw [e]
  rfl

/-- The snapshots after a P-KICK. -/
theorem State.snap_endKick (hlen : s.mon.length = s.cfg.G) (hp : p ∈ s.producers) (g : Nat) :
    (s.endKick p).snap g = if p = .monitor g ∧ s.work p = [[]] then s.cur g else s.snap g := by
  split
  · next hlast =>
    obtain ⟨rfl, hw⟩ := hlast
    have hg : g < s.mon.length := by simpa [State.producers, hlen] using hp
    exact s.snap_endKick_of_last hg hw
  · next hn => exact s.snap_endKick_of_not_last hn

/-- What KICK leaves beside the producers: all but `tail`, `sending` and the wire. -/
theorem kick_frame (h : kick s = .next t) :
    t.hb = s.hb ∧ t.faults = s.faults ∧ t.refusals = s.refusals ∧ SameInputs s t ∧
      (∀ j, t.slotByte j = s.slotByte j) ∧ t.snap = s.snap ∧ t.cur = s.cur := by
  obtain ⟨k, x, w, -, rfl⟩ := kick_writes h
  exact ⟨rfl, rfl, rfl, ⟨rfl, rfl, rfl, rfl, rfl, rfl, rfl, rfl⟩, fun _ => rfl, rfl, rfl⟩

/-- Settles O44: P-KICK ends its producer's step on what KICK leaves. -/
theorem pKickResult : Obligations.PKickResult := by
  intro s u p hp hlen hk hu
  obtain ⟨hseq, howner, hcfg, hmon⟩ := kick_producers hu
  obtain ⟨hhb, hfaults, hmarks, hinputs, hslots, hsnap, hcur⟩ := kick_frame hu
  have hlenu : u.mon.length = u.cfg.G := by rw [hmon, hcfg, hlen]
  have hpu : p ∈ u.producers := by rwa [State.producers, hcfg]
  have hwork : u.work p = s.work p := by rw [State.work, hseq, State.work]
  have hstep : producerStep p s = .next (u.endKick p) := by
    rw [producerStep_of_kickp hk]
    exact pKick_next.2 ⟨u, hu, rfl⟩
  have hslot (i : Nat) : (u.endKick p).slotByte i = s.slotByte i := by rw [State.slotByte_endKick, hslots]
  have hend := u.endKick_same hlenu hpu
  rw [hwork, howner] at hend
  refine ⟨_, hstep, ?_, by simp, by simp, by simp, by simp, by simp [hhb], by simp [hfaults], by simp [hmarks], ?_,
    fun i => ⟨State.memRead_congr (by simp [hcfg]) (hslot i), hslot i⟩,
    fun q hq => by rw [u.seq_endKick_other hq, hseq], fun g => by rw [State.cur_endKick, hcur], fun ts hw => ?_,
    fun hmid => ?_, fun g => by rw [u.snap_endKick hlenu hpu, hwork, hcur, hsnap]⟩
  · obtain ⟨ts, -, hs, -⟩ | ⟨-, hs, -⟩ := hend <;> rw [State.kickp, hs]
  · simpa only [SameInputs, hinputs] using u.sameInputs_endKick p
  · obtain ⟨ts', hw', hs, ho⟩ | ⟨hmid, -⟩ := hend
    · obtain rfl : ts = ts' := by simpa using hw.symm.trans hw'
      exact ⟨by rw [State.work, hs], ho⟩
    · exact absurd hw (hmid ts)
  · obtain ⟨ts, hw, -⟩ | ⟨-, hs, ho⟩ := hend
    · exact absurd hw (hmid ts)
    · exact ⟨by rw [State.work, hs], ho⟩

end Sys2Proof.Machine
end

section
/-! SUPPORT. A byte that the host enqueues, from ENQ to the end of M's P-KICK (40_ring_buffer.md R102, R103, R106,
R112). -/

namespace Sys2Proof.Machine

section EnqueueByte

variable {s t u : State} {b : Byte}

/-- The block takes a byte from the host: M is idle and nobody holds the lock. -/
structure State.AwaitsEnq (s : State) : Prop where
  inv : s.Inv
  resetDone : s.resetDone = true
  idle : s.busy .main = false
  free : s.owner = none

theorem State.Inv.awaitsEnq_of_quiet (hinv : s.Inv) (hquiet : s.Quiet) (hr : s.resetDone = true) : s.AwaitsEnq :=
  ⟨hinv, hr, hquiet.2 .main (by simp [State.producers]), hinv.owner_of_quiet hquiet⟩

theorem State.Inv.pending_of_quiet (hinv : s.Inv) (hquiet : s.Quiet) : s.pending = [] := by
  have ⟨_, ⟨hh, ht, _⟩, _⟩ := hinv
  exact (State.pending_eq_nil_iff hh ht).2 hquiet.1

/-- One slot stays free (R107). -/
theorem State.Inv.full_eq_false_of_room (hinv : s.Inv) (hroom : s.pending.length + 1 < s.cfg.N) : s.full = false := by
  obtain ⟨-, hlength, -, hfull, -⟩ := ringCapacity s hinv
  rw [← Bool.not_eq_true, hfull]
  omega

/-- M's byte in the ring, its KICK still to come. -/
def State.withByte (s : State) (b : Byte) : State :=
  ((s.give .main [[b]]).setSlot s.head b).publish .main [] []

theorem State.seq_withByte (s : State) (b : Byte) : (s.withByte b).seq .main = ⟨[[]], true⟩ := rfl

/-- ENQ and P-ENQ put the byte in the ring, so the enqueue is M's P-KICK in the state with the byte. -/
theorem State.AwaitsEnq.enqueueByte_eq (h : s.AwaitsEnq) (hfull : s.full = false) (b : Byte) :
    enqueueByte b s = producerStep .main (s.withByte b) ∧ (s.withByte b).Inv := by
  have ⟨_, ⟨hh, _⟩, _⟩ := h.inv
  have hk : (s.give .main [[b]]).kickp .main = false := (State.busy_eq_false_iff.1 h.idle).2
  have hn : (s.give .main [[b]]).enqHold .main = none := State.enqHold_none.2 ⟨.inl h.free, hfull⟩
  have henq : exec (.enq b) s = .next (s.give .main [[b]]) := by
    simp [exec, execEnq, dataOperand, h.resetDone, h.idle]
  have hpenq : producerStep .main (s.give .main [[b]]) = .next (s.withByte b) :=
    (producerStep_of_byte hk rfl).trans (pEnq_of_free b [] [] hn hh)
  exact ⟨by rw [enqueueByte, henq, andThen, hpenq, andThen], (h.inv.ran (exec_ran henq)).producerStep hpenq⟩

/-- P-KICK after M's one byte: KICK, and then M is idle again and the lock is free. -/
theorem State.AwaitsEnq.enqueueByte_kick (h : s.AwaitsEnq) (hfull : s.full = false) (b : Byte) :
    ∃ u, kick (s.withByte b) = .next u ∧ enqueueByte b s = .next (u.endKick .main) ∧
      (u.endKick .main).AwaitsEnq := by
  obtain ⟨heq, hinv⟩ := h.enqueueByte_eq hfull b
  have ⟨⟨_, hlen⟩, ⟨_, ht, _⟩, _⟩ := hinv
  have hk : (s.withByte b).kickp .main = true := by rw [State.kickp, s.seq_withByte]
  obtain ⟨u, hu⟩ := kick_goes_on (s := s.withByte b) ht
  have hstep : producerStep .main (s.withByte b) = .next (u.endKick .main) :=
    (producerStep_of_kickp hk).trans (pKick_next.2 ⟨u, hu, rfl⟩)
  obtain ⟨hseq, -, hcfg, hmon⟩ := kick_producers hu
  obtain ⟨-, -, -, ⟨-, hdone, -⟩, -⟩ := kick_frame hu
  obtain ⟨-, hdone', -⟩ := u.sameInputs_endKick .main
  have hwork : u.work .main = [[]] := by rw [State.work, hseq, s.seq_withByte]
  obtain ⟨ts, hw, hs, howner⟩ | ⟨hmid, -⟩ :=
    u.endKick_same (by rw [hmon, hcfg, hlen]) (p := .main) (by simp [State.producers])
  · obtain rfl : ts = [] := by simpa using hw.symm.trans hwork
    refine ⟨u, hu, heq.trans hstep, hinv.producerStep hstep, hdone'.trans (hdone.trans h.resetDone), ?_, howner⟩
    exact State.busy_eq_false_iff.2 ⟨by rw [State.work, hs], by rw [State.kickp, hs]⟩
  · exact absurd hwork (hmid [])

/-- What the enqueue of a byte does: it joins the buffered ones, or, with nothing in flight, the first of them all is
sent. -/
theorem State.AwaitsEnq.enqueueByte_result (h : s.AwaitsEnq) (hfull : s.full = false) (b : Byte) :
    ∃ t, enqueueByte b s = .next t ∧ t.AwaitsEnq ∧ t.cfg = s.cfg ∧ t.slotByte s.head = b ∧ t.sending = true ∧
      (s.sending = true → t.wire = s.wire ∧ t.pending = s.pending ++ [b]) ∧
      (s.sending = false → ∃ c, s.pending ++ [b] = c :: t.pending ∧ t.wire = s.wire ++ [c]) := by
  obtain ⟨u, hu, henqueue, hawaits⟩ := h.enqueueByte_kick hfull b
  have ⟨_, ⟨hh, ht, _⟩, _⟩ := h.inv
  have hpending : (s.withByte b).pending = s.pending ++ [b] :=
    State.pending_enqueue (s := s.give .main [[b]]) hh ht hfull .main b [] []
  have hslot : (s.withByte b).slotByte s.head = b := by
    rw [State.withByte, State.slotByte_publish, State.slotByte_setSlot_same]
  have hwire : (s.withByte b).wire = s.wire := by simp [State.withByte]
  obtain ⟨-, -, hcfg, -⟩ := kick_producers hu
  obtain ⟨-, -, -, -, hslots, -⟩ := kick_frame hu
  refine ⟨_, henqueue, hawaits, by rw [State.endKick_cfg, hcfg]; rfl, by rw [State.slotByte_endKick, hslots, hslot],
    ?_⟩
  rw [State.endKick_sending, State.endKick_wire, State.pending_endKick, ← hpending, ← hwire]
  have ⟨_, ⟨hh', ht', _⟩, _⟩ := (h.enqueueByte_eq hfull b).2
  obtain ⟨hs, he, -, rfl⟩ | ⟨hs, rfl⟩ := kick_next hu
  · have hidle : s.sending = false := hs
    exact ⟨rfl, fun hsent => by simp [hidle] at hsent, fun _ => ⟨_, State.pending_takeNext hh' ht' he _, rfl⟩⟩
  · have he : (s.withByte b).empty ≠ true := fun he => by
      simp [(State.pending_eq_nil_iff hh' ht').2 (State.empty_iff.1 he)] at hpending
    have hsent : s.sending = true := hs.resolve_right he
    exact ⟨hsent, fun _ => ⟨rfl, rfl⟩, fun hidle => by simp [hidle] at hsent⟩

/-- Settles O28: with nothing buffered the byte itself is the first. -/
theorem enqOnIdleBlockTransmits : Obligations.EnqOnIdleBlockTransmits := by
  intro b s hinv hquiet hr hs
  have hnone : s.pending = [] := hinv.pending_of_quiet hquiet
  obtain ⟨hN, -⟩ := Config.bounds_of_wf hinv.1.1
  have hfull : s.full = false := hinv.full_eq_false_of_room (by rw [hnone, List.length_nil]; omega)
  obtain ⟨t, hstep, hawaits, -, hslot, hsent, -, hfirst⟩ :=
    (hinv.awaitsEnq_of_quiet hquiet hr).enqueueByte_result hfull b
  obtain ⟨c, hpending, hwire⟩ := hfirst hs
  obtain ⟨rfl, hrest⟩ : b = c ∧ [] = t.pending := by simpa [hnone] using hpending
  have ⟨_, ⟨hh, ht, _⟩, _⟩ := hawaits.inv
  exact ⟨t, hstep, hsent, hwire, State.empty_iff.2 ((State.pending_eq_nil_iff hh ht).1 hrest.symm), hawaits.idle,
    hawaits.free, hslot⟩

/-- Settles O29: the first byte is sent, and the other two are buffered behind it. -/
theorem threeEnqueuesScenario : Obligations.ThreeEnqueuesScenario := by
  intro a b c s hinv hquiet hr hs hN
  have hnone : s.pending = [] := hinv.pending_of_quiet hquiet
  have hroom : s.full = false := hinv.full_eq_false_of_room (by rw [hnone, List.length_nil]; omega)
  obtain ⟨t, hst, hawaitst, hcfg, -, hsent, -, hfirst⟩ :=
    (hinv.awaitsEnq_of_quiet hquiet hr).enqueueByte_result hroom a
  obtain ⟨d, hpending, hwire⟩ := hfirst hs
  obtain ⟨rfl, hrest⟩ : a = d ∧ [] = t.pending := by simpa [hnone] using hpending
  have hroomt : t.full = false := hawaitst.inv.full_eq_false_of_room (by rw [← hrest, hcfg, List.length_nil]; omega)
  obtain ⟨u, htu, hawaitsu, hcfgu, -, hsentu, hsecond, -⟩ := hawaitst.enqueueByte_result hroomt b
  obtain ⟨hwireu, hpendingu⟩ := hsecond hsent
  have hroomu : u.full = false :=
    hawaitsu.inv.full_eq_false_of_room (by rw [hpendingu, ← hrest, hcfgu, hcfg]; exact hN)
  obtain ⟨v, huv, hawaitsv, -, -, hsentv, hthird, -⟩ := hawaitsu.enqueueByte_result hroomu c
  obtain ⟨hwirev, hpendingv⟩ := hthird hsentu
  have hall : v.pending = [b, c] := by simp [hpendingv, hpendingu, ← hrest]
  obtain ⟨-, hlength, -⟩ := ringCapacity v hawaitsv.inv
  exact ⟨t, u, v, hst, htu, huv, hsentv, by rw [hwirev, hwireu, hwire], by simp [← hlength, hall], hall⟩

end EnqueueByte

end Sys2Proof.Machine
end

section
/-! SUPPORT. PCHG (41_edge_monitor.md R131, R132, R137): the falling-edge predicate bit by bit, the events its
acceptance finds, and what it writes. -/

namespace Sys2Proof

/-! ## Bindings (00_scope.md R7) -/

theorem Config.lt_length_of_mem_bindings {c : Config} {g : Nat} {x : Binding} (hx : x ∈ c.bindings g) :
    g < c.bind.length := by
  by_contra hg
  simp [Config.bindings, Nat.not_lt.1 hg] at hx

theorem Config.lt_groups_of_mem_bindings {c : Config} {g : Nat} {x : Binding} (hwf : c.wf = true)
    (hx : x ∈ c.bindings g) : g < c.G := by
  obtain ⟨-, ⟨-, -, -, hlen⟩, -⟩ := (configurationCheckIsRule c).1 hwf
  exact hlen ▸ Config.lt_length_of_mem_bindings hx

theorem Config.mem_flatten_of_mem_bindings {c : Config} {g : Nat} {x : Binding} (hx : x ∈ c.bindings g) :
    x ∈ c.bind.flatten := by
  have hg := Config.lt_length_of_mem_bindings hx
  exact List.mem_flatten.2 ⟨c.bind[g], List.getElem_mem hg, by simpa [Config.bindings, hg] using hx⟩

/-- A command is bound to one pin of one group (R7 (e)), so it tells its binding. -/
theorem Config.binding_eq_of_cmd_eq {c : Config} {g : Nat} {x y : Binding} (hwf : c.wf = true)
    (hx : x ∈ c.bindings g) (hy : y ∈ c.bindings g) (hcmd : y.cmd = x.cmd) : y = x := by
  obtain ⟨-, -, -, -, hpin, hbeat, -⟩ := (configurationCheckIsRule c).1 hwf
  have hxf := Config.mem_flatten_of_mem_bindings hx
  obtain ⟨z, hz⟩ := List.length_eq_one_iff.1 (hpin x.cmd (hbeat x hxf))
  have honly {b : Binding} (hb : b ∈ c.bind.flatten) (hbc : b.cmd = x.cmd) : b = z := by
    rw [← List.mem_singleton, ← hz]
    simpa [hbc] using hb
  rw [honly (Config.mem_flatten_of_mem_bindings hy) hcmd, honly hxf rfl]

namespace Machine

section Pchg

variable {s t : State} {g : Nat} {v : Byte} {x : Binding}

/-! ## The falling-edge predicate -/

/-- Masking with one pin's mask gives 0 exactly when the pin is low. -/
theorem and_twoPow_eq_zero {b : Byte} {i : Nat} (hi : i < 8) : b &&& BitVec.twoPow 8 i = 0 ↔ b.getLsbD i = false := by
  have hne : BitVec.twoPow 8 i ≠ 0#8 := fun h => by
    have := congrArg (·.getLsbD i) h
    simp [hi] at this
  cases hb : b.getLsbD i <;> simp [BitVec.and_twoPow, hb, hne]

/-- Settles O32: with `v`'s bit clear, a changed bit is a set bit of the snapshot. -/
theorem fallIsHighToLow : Obligations.FallIsHighToLow := by
  intro snap v i hi
  simp only [fall, ne_eq, and_twoPow_eq_zero hi, BitVec.getLsbD_xor]
  cases v.getLsbD i <;> simp

/-! ## The events of an acceptance -/

theorem frame_injective : Function.Injective frame := fun _ _ h =>
  enc_injective (List.cons.inj h).1

/-- A binding's command is among the events when its own pin falls, for no other binding has the command. -/
theorem State.cmd_mem_eventsAt (hwf : s.cfg.wf = true) (hx : x ∈ s.cfg.bindings g) :
    x.cmd ∈ s.eventsAt g v ↔ fall (v ^^^ s.snap g) v x.mask = true := by
  simp only [State.eventsAt, edgeEvents, List.mem_map, List.mem_filter]
  constructor
  · rintro ⟨y, ⟨hy, hfall⟩, hcmd⟩
    rwa [← Config.binding_eq_of_cmd_eq hwf hx hy hcmd]
  · exact fun hfall => ⟨x, ⟨hx, hfall⟩, rfl⟩

/-- The acceptance gives its monitor the frames of the events, and leaves `kickp`. -/
theorem State.seq_startInvocation (hlen : s.mon.length = s.cfg.G) (hg : g < s.cfg.G) (v : Byte) :
    (s.startInvocation g v).seq (.monitor g) = ⟨(s.eventsAt g v).map frame, s.kickp (.monitor g)⟩ := by
  have hp : .monitor g ∈ (s.setCur g v).producers := (State.mem_producers _).2 (.inr ⟨g, hg, rfl⟩)
  have hseq (ts : List (List Byte)) :
      ((s.setCur g v).give (.monitor g) ts).seq (.monitor g) = ⟨ts, s.kickp (.monitor g)⟩ := by
    rw [State.seq_give_same _ ts (by simpa using hlen) hp, State.kickp, State.seq_setCur, State.kickp]
  obtain ⟨hev, e⟩ | ⟨-, e⟩ := s.startInvocation_cases g v
  · rw [e, State.seq_complete, hseq, hev, List.map_nil]
  · rw [e, hseq]

theorem State.work_startInvocation (hlen : s.mon.length = s.cfg.G) (hg : g < s.cfg.G) (v : Byte) :
    (s.startInvocation g v).work (.monitor g) = (s.eventsAt g v).map frame := by
  rw [State.work, State.seq_startInvocation hlen hg]

/-- An acceptance enqueues the command of a binding exactly when its pin is 1 in the snapshot and 0 in the value
read. -/
theorem State.frame_mem_startInvocation (hwf : s.cfg.wf = true) (hlen : s.mon.length = s.cfg.G)
    (hx : x ∈ s.cfg.bindings g) {i : Nat} (hi : i < 8) (hmask : x.mask = BitVec.twoPow 8 i) :
    frame x.cmd ∈ (s.startInvocation g v).work (.monitor g) ↔
      (s.snap g).getLsbD i = true ∧ v.getLsbD i = false := by
  rw [State.work_startInvocation hlen (Config.lt_groups_of_mem_bindings hwf hx),
    List.mem_map_of_injective frame_injective, State.cmd_mem_eventsAt hwf hx, hmask, fallIsHighToLow _ _ _ hi,
    Bool.and_eq_true, Bool.not_eq_true']

/-! ## The operation -/

theorem exec_pchg_of_idle {g : BitVec 4} (hr : s.resetDone = true) (hg : g.toNat < s.cfg.G)
    (hidle : s.busy (.monitor g.toNat) = false) :
    exec (.pchg g v) s = .next (s.startInvocation g.toNat v) := by
  simp [exec, execPchg, groupIndex, dataOperand, hr, hg, hidle]

theorem exec_pchg_of_busy {g : BitVec 4} (hr : s.resetDone = true) (hg : g.toNat < s.cfg.G)
    (hbusy : s.busy (.monitor g.toNat) = true) : exec (.pchg g v) s = .next s := by
  simp [exec, execPchg, groupIndex, hold, hr, hg, hbusy]

/-- Settles O33: an idle monitor accepts, and the events are those of the pins that fell. -/
theorem eventIffPressed : Obligations.EventIffPressed := by
  intro g v s t x i hwf hr hg hlen hidle hx hi hmask h
  obtain rfl : s.startInvocation g.toNat v = t := by simpa [exec_pchg_of_idle hr hg hidle] using h
  exact State.frame_mem_startInvocation hwf hlen hx hi hmask

/-- Settles O30: an idle monitor accepts, with an event or without; a busy one holds the operation. -/
theorem pchgResult : Obligations.PchgResult := by
  refine fun g v s hr hg hlen => ⟨fun hidle => ?_, exec_pchg_of_busy hr hg⟩
  have hseq := State.seq_startInvocation hlen hg v
  obtain ⟨-, hkick⟩ := State.busy_eq_false_iff.1 hidle
  refine ⟨_, s.eventsAt g.toNat v, exec_pchg_of_idle hr hg hidle, rfl, by rw [State.work, hseq],
    by rw [State.kickp, hseq, hkick], ?_⟩
  by_cases hev : s.eventsAt g.toNat v = []
  · obtain ⟨hcur, hsnap, -⟩ := State.startInvocation_silent hlen hg hidle hev
    exact ⟨hcur, by rw [hsnap, if_pos hev]⟩
  · obtain ⟨hcur, hsnap, -⟩ := State.startInvocation_events hlen hg hev
    exact ⟨hcur, by rw [hsnap, if_neg hev]⟩

/-! ## The frame -/

/-- The acceptance writes the monitor of its group, and nothing else. -/
theorem State.startInvocation_writes (s : State) (g : Nat) (v : Byte) :
    ∃ l, (∀ k, k ≠ g → l[k]? = s.mon[k]?) ∧ s.startInvocation g v = { s with mon := l } := by
  obtain ⟨-, e⟩ | ⟨-, e⟩ := s.startInvocation_cases g v <;>
    exact ⟨_, fun k hk => by simp [State.give, State.setSeq, State.setCur, hk.symm], e⟩

/-- PCHG writes the monitor of its group, or, where it is refused, the marks. -/
theorem execPchg_writes {g : BitVec 4} (h : execPchg g v s = .next t) :
    ∃ l rs, (∀ k, k ≠ g.toNat → l[k]? = s.mon[k]?) ∧ t = { s with mon := l, refusals := rs } ∧
      (s.resetDone = true → g.toNat < s.cfg.G → rs = s.refusals) := by
  obtain ⟨hge, e⟩ | ⟨-, hr, e⟩ | ⟨-, -, -, e⟩ | ⟨-, -, -, e⟩ := execPchg_cases g v s <;> cases e.symm.trans h
  · exact ⟨s.mon, (s.mark .badGroup).refusals, fun _ _ => rfl, rfl, fun _ hg => absurd hge (Nat.not_le.2 hg)⟩
  · exact ⟨s.mon, (s.mark .noReset).refusals, fun _ _ => rfl, rfl, fun hdone => by simp [hr] at hdone⟩
  · exact ⟨s.mon, s.refusals, fun _ _ => rfl, rfl, fun _ _ => rfl⟩
  · obtain ⟨l, hother, e⟩ := s.startInvocation_writes g.toNat v
    exact ⟨l, s.refusals, hother, e, fun _ _ => rfl⟩

/-- Settles O31, by what PCHG writes. -/
theorem pchgFrame : Obligations.PchgFrame := by
  intro g v s t h
  obtain ⟨l, rs, hother, rfl, hmarks⟩ := execPchg_writes h
  have hmonitor (k : Nat) (hk : k ≠ g.toNat) : State.monitor { s with mon := l, refusals := rs } k = s.monitor k := by
    rw [State.monitor, hother k hk, State.monitor]
  refine ⟨⟨rfl, rfl, rfl, fun _ => ⟨rfl, rfl, rfl⟩⟩, ⟨fun k hk => ?_, fun p hp => ?_⟩,
    ⟨rfl, rfl, rfl, rfl, rfl, rfl, rfl, rfl⟩, rfl, rfl, rfl, rfl, hmarks⟩
  · simp [State.snap, State.cur, hmonitor k hk]
  · cases p with
    | main => rfl
    | monitor k =>
      have hk : k ≠ g.toNat := fun e => hp (e ▸ rfl)
      rw [State.seq, hmonitor k hk, State.seq]

end Pchg

end Machine

end Sys2Proof
end

section
/-! SUPPORT. The value a group last read (41_edge_monitor.md R135, R137): it is the snapshot while the monitor is idle
and `cur` while it is busy, and only RST and an accepted PCHG of the group change it. -/

namespace Sys2Proof.Machine

section LastRead

variable {s t u : State} {g k : Nat} {i : Instr} {p : Producer} {v : Byte}

/-- The value of the group's last accepted read, or of its seed where none was accepted since RST. -/
def State.lastRead (s : State) (g : Nat) : Byte := if s.busy (.monitor g) = true then s.cur g else s.snap g

theorem State.lastRead_of_idle (h : s.busy (.monitor g) = false) : s.lastRead g = s.snap g := by
  simp [State.lastRead, h]

theorem State.lastRead_of_busy (h : s.busy (.monitor g) = true) : s.lastRead g = s.cur g := by
  simp [State.lastRead, h]

/-! ## RST and an accepted PCHG set it -/

theorem State.lastRead_startInvocation (hlen : s.mon.length = s.cfg.G) (hg : g < s.cfg.G)
    (hidle : s.busy (.monitor g) = false) (v : Byte) : (s.startInvocation g v).lastRead g = v := by
  by_cases hev : s.eventsAt g v = []
  · obtain ⟨-, hsnap, hbusy⟩ := State.startInvocation_silent hlen hg hidle hev
    rw [State.lastRead_of_idle hbusy, hsnap]
  · obtain ⟨hcur, -, hbusy⟩ := State.startInvocation_events hlen hg hev
    rw [State.lastRead_of_busy hbusy, hcur]

theorem State.lastRead_afterRst (hg : g < s.cfg.G) : s.afterRst.lastRead g = s.seedFor g := by
  rw [State.lastRead_of_idle (by simp [State.busy_eq_false_iff, State.work, State.kickp, Sequencer.idle]),
    State.snap_afterRst s hg]

theorem Taken.afterRst (h : Taken s t) (hruns : s.runs = some .rst) :
    ∃ cs d is, t = (s.movedOn cs d is).afterRst := by
  cases h with
  | runs i _ _ hi cs d is _ hexec =>
    obtain rfl : i = .rst := by simpa using hi.symm.trans hruns
    exact ⟨cs, d, is, by simpa [exec, execRst, eq_comm] using hexec⟩
  | rests _ _ hi | writes _ _ _ _ _ _ hi | kicks _ _ _ hi => simp [hruns] at hi

/-! ## The first RST stays done -/

theorem Ran.resetDone_eq (h : Ran s i t) (hi : i ≠ .rst) : t.resetDone = s.resetDone := by
  cases h with
  | rst => exact absurd rfl hi
  | _ => rfl

theorem Taken.resetDone_eq (h : Taken s t) (hr : s.runs ≠ some .rst) : t.resetDone = s.resetDone := by
  cases h with
  | rests _ _ _ cs d is vs rs _ ht => rw [ht]
  | writes p b bs ts _ _ _ cs d is _ _ _ ht => simp [ht, State.publish, State.movedOn]
  | kicks p _ _ _ cs d is _ u hu ht =>
    obtain ⟨-, -, -, ⟨-, hdone, -⟩, -⟩ := kick_frame hu
    obtain ⟨-, hend, -⟩ := u.sameInputs_endKick p
    rw [ht, hend, hdone]
    rfl
  | runs i _ _ hruns cs d is _ hexec => exact (exec_ran hexec).resetDone_eq fun e => hr (e ▸ hruns)

/-! ## No other step changes it -/

theorem State.exists_byte_of_nextWrite {w : List Byte} (h : s.nextWrite = some (p, w)) : ∃ b bs, w = b :: bs := by
  unfold State.nextWrite at h
  split at h
  · split at h
    · simp at h
    · split at h
      · next b bs _ _ =>
        split at h
        · exact ⟨b, bs, by simpa [eq_comm] using (Prod.mk.inj (Option.some.inj h)).2⟩
        · simp at h
      · simp at h
  · simp at h

/-- A producer gains work by the operation it accepts, and is done only with the P-KICK of its last transaction. -/
theorem Taken.busy_eq (h : Taken s t) (hinv : s.Inv) (hlast : ¬ (s.nextKick = some p ∧ s.work p = [[]]))
    (ha : ∀ i, s.runs = some i → acceptor i ≠ some p) (hr : s.runs ≠ some .rst) : t.busy p = s.busy p := by
  have ⟨⟨_, hlen⟩, _⟩ := hinv
  have of_work (hs : s.work p ≠ []) (ht : t.work p ≠ []) : t.busy p = s.busy p := by simp [State.busy, hs, ht]
  by_cases hwrite : ∃ w, s.nextWrite = some (p, w)
  · obtain ⟨w, hw⟩ := hwrite
    obtain ⟨b, bs, rfl⟩ := State.exists_byte_of_nextWrite hw
    obtain ⟨ts, hs, ht⟩ := h.write_same hlen hw
    exact of_work (by simp [hs]) (by simp [ht])
  by_cases hkick : s.nextKick = some p
  · obtain ⟨howner, ⟨ts, hs, ht, -⟩ | ⟨-, ht, -⟩⟩ := h.kick_same hinv hkick
    · have hmore : ts ≠ [] := fun e => hlast ⟨hkick, e ▸ hs⟩
      exact of_work (by simp [hs]) (ht ▸ hmore)
    · obtain ⟨-, -, ⟨-, howns⟩, -⟩ := hinv
      obtain ⟨-, hs⟩ := howns p (Option.mem_toList.2 howner)
      exact of_work hs (ht ▸ hs)
  · have hseq : t.seq p = s.seq p := h.seq_eq (fun w hw => hwrite ⟨w, hw⟩) hkick ha hr
    rw [State.busy, State.work, State.kickp, hseq]
    rfl

theorem notRstOrGroup_iff : notRstOrGroup g i = true ↔ i ≠ .rst ∧ acceptor i ≠ some (.monitor g) := by
  cases i <;> simp [notRstOrGroup, acceptor, groupIndex]

/-- The end of an invocation hands the value read from `cur` to the snapshot; else both registers stay. -/
theorem Taken.lastRead_eq (h : Taken s t) (hinv : s.Inv) (hg : g < s.cfg.G)
    (hok : ∀ i, s.runs = some i → notRstOrGroup g i = true) : t.lastRead g = s.lastRead g := by
  have hacceptor (i : Instr) (hi : s.runs = some i) : acceptor i ≠ some (.monitor g) :=
    (notRstOrGroup_iff.1 (hok i hi)).2
  have hpchg (k : BitVec 4) (v : Byte) (hi : s.runs = some (.pchg k v)) : k.toNat ≠ g := fun e =>
    hacceptor _ hi (e ▸ rfl)
  have hr : s.runs ≠ some .rst := fun hi => (notRstOrGroup_iff.1 (hok _ hi)).1 rfl
  by_cases hlast : s.nextKick = some (.monitor g) ∧ s.work (.monitor g) = [[]]
  · obtain ⟨hkick, hw⟩ := hlast
    obtain ⟨⟨-, hlen⟩, -⟩ := hinv
    obtain ⟨hsnap, -, hidle⟩ := h.completes hlen hg hkick hw
    rw [State.lastRead_of_idle hidle, hsnap, State.lastRead_of_busy (by simp [State.busy, hw])]
  · rw [State.lastRead, h.busy_eq hinv hlast hacceptor hr, h.cur_eq hpchg hr,
      h.snap_eq hlast (fun k v hi e => absurd e (hpchg k v hi)) hr, State.lastRead]

/-- Over a run with no RST and no PCHG of the group the last read stays, and so do the configuration and that the
first RST is done. -/
theorem runSteps_lastRead_eq (hinv : s.Inv) (hg : g < s.cfg.G) (hok : runsOnly (notRstOrGroup g) k s = true)
    (hrun : runSteps k s = .next t) :
    t.Inv ∧ t.cfg = s.cfg ∧ t.resetDone = s.resetDone ∧ t.lastRead g = s.lastRead g := by
  induction k generalizing s with
  | zero =>
    obtain rfl : s = t := by simpa [runSteps] using hrun
    exact ⟨hinv, rfl, rfl, rfl⟩
  | succ k ih =>
    obtain ⟨u, hu, hfirst, hokRest, hrest⟩ := firstStep_of_run hok hrun
    have taken := step_taken hu
    have hr : s.runs ≠ some .rst := fun hi => (notRstOrGroup_iff.1 (hfirst _ hi)).1 rfl
    obtain ⟨hinv', hcfg, hdone, hread⟩ :=
      ih (everyStepKeepsInvariant s u hinv hu) (taken.cfg_eq.symm ▸ hg) hokRest hrest
    exact ⟨hinv', hcfg.trans taken.cfg_eq, hdone.trans (taken.resetDone_eq hr),
      hread.trans (taken.lastRead_eq hinv hg hfirst)⟩

end LastRead

/-! ## The edge law -/

section EdgeLaw

variable {s t w : State} {g : BitVec 4} {v : Byte}

/-- The first read: an accepted PCHG reads the port, RST takes the seed. -/
theorem Taken.firstRead (h : Taken s t) (hlen : s.mon.length = s.cfg.G) (hg : g.toNat < s.cfg.G)
    (hfirst : (s.runs = some (.pchg g v) ∧ s.resetDone = true) ∨ (s.runs = some .rst ∧ s.seed[g.toNat]? = some v)) :
    t.resetDone = true ∧ t.lastRead g.toNat = v := by
  obtain ⟨hruns, hr⟩ | ⟨hruns, hseed⟩ := hfirst
  · have hdone : t.resetDone = s.resetDone := h.resetDone_eq (by simp [hruns])
    obtain ⟨hidle, cs, d, is, rfl⟩ := h.startInvocation hr hg hruns
    exact ⟨hdone.trans hr, State.lastRead_startInvocation (s := s.movedOn cs d is) hlen hg hidle v⟩
  · obtain ⟨cs, d, is, rfl⟩ := h.afterRst hruns
    refine ⟨rfl, ?_⟩
    rw [State.lastRead_afterRst (s := s.movedOn cs d is) hg, State.seedFor]
    simp [State.movedOn, hseed]

/-- The second read compares with the first. -/
theorem Taken.secondRead (h : Taken s t) (hinv : s.Inv) (hr : s.resetDone = true) {x : Binding} {i : Nat}
    (hruns : s.runs = some (.pchg g v)) (hx : x ∈ s.cfg.bindings g.toNat) (hi : i < 8)
    (hmask : x.mask = BitVec.twoPow 8 i) :
    frame x.cmd ∈ t.work (.monitor g.toNat) ↔ (s.lastRead g.toNat).getLsbD i = true ∧ v.getLsbD i = false := by
  obtain ⟨⟨hwf, hlen⟩, -⟩ := hinv
  obtain ⟨hidle, cs, d, is, rfl⟩ := h.startInvocation hr (Config.lt_groups_of_mem_bindings hwf hx) hruns
  rw [State.lastRead_of_idle hidle]
  exact State.frame_mem_startInvocation (s := s.movedOn cs d is) hwf hlen hx hi hmask

end EdgeLaw

/-- Settles O35: the first read is the last read until the second, which compares with it. -/
theorem edgeLawOverTwoReads : Obligations.EdgeLawOverTwoReads := by
  intro k s u t w g v₁ v₂ x i hinv hfirst hu hok hrun hruns hw hx hi hmask
  have ⟨⟨hwf, hlen⟩, _⟩ := hinv
  have hg : g.toNat < s.cfg.G := Config.lt_groups_of_mem_bindings hwf hx
  have taken := step_taken hu
  obtain ⟨hdone, hread⟩ := taken.firstRead hlen hg hfirst
  obtain ⟨hinvt, hcfg, hdonet, hreadt⟩ :=
    runSteps_lastRead_eq (everyStepKeepsInvariant s u hinv hu) (taken.cfg_eq.symm ▸ hg) hok hrun
  have hxt : x ∈ t.cfg.bindings g.toNat := by rwa [hcfg, taken.cfg_eq]
  rw [(step_taken hw).secondRead hinvt (hdonet.trans hdone) hruns hxt hi hmask, hreadt, hread]

end Sys2Proof.Machine
end

section
/-! SUPPORT. RST (42_heartbeat_and_system.md R162): what it leaves, the byte in flight it abandons, and that the last
RST decides. -/

namespace Sys2Proof.Machine

section Rst

variable {s t : State}

theorem exec_rst_next : exec .rst s = .next t ↔ t = s.afterRst := by
  simp [exec, execRst, eq_comm]

/-- Settles O23, by the fields RST writes. -/
theorem rstFrame : Obligations.RstFrame := by
  intro s t h
  obtain rfl := exec_rst_next.1 h
  exact ⟨rfl, rfl, rfl, rfl, rfl, rfl, rfl⟩

/-- Settles O24: RST clears `sending`, and a TXC with nothing in flight faults. -/
theorem rstAbandonsByteInFlight : Obligations.RstAbandonsByteInFlight := by
  intro s t h
  obtain rfl := exec_rst_next.1 h
  obtain ⟨t, hexec, rfl, -⟩ := (txcResult s.afterRst rfl).1 rfl
  exact ⟨rfl, hexec⟩

/-- A supplied seed is no free byte, so it does not see the state it is supplied to. -/
theorem State.seedFor_withSeed {vs : List Byte} {g : Nat} (hg : g < vs.length) (s : State) :
    (s.withSeed vs).seedFor g = vs[g] := by
  simp [State.seedFor, State.withSeed, hg]

/-- After RST with the seed supplied the snapshot is that seed. -/
theorem State.snap_afterRst_withSeed {vs : List Byte} {g : Nat} (hg : g < s.cfg.G) (hvs : g < vs.length) :
    (s.withSeed vs).afterRst.snap g = vs[g] := by
  rw [State.snap_afterRst (s.withSeed vs) hg, State.seedFor_withSeed hvs]

/-- Settles O25: both last RSTs take the snapshots from `vs`, and every producer is idle after each. -/
theorem rstTwiceIsRstOnce : Obligations.RstTwiceIsRstOnce := by
  intro s t u v vs hlen ht hu hv
  obtain rfl := exec_rst_next.1 ht
  obtain rfl := exec_rst_next.1 hu
  obtain rfl := exec_rst_next.1 hv
  refine ⟨rfl, rfl, rfl, rfl, rfl, fun g hg => ?_, fun p => ?_, rfl, rfl, rfl⟩
  · have hvs : g < vs.length := hlen ▸ hg
    rw [State.snap_afterRst_withSeed (s := s.afterRst) hg hvs, State.snap_afterRst_withSeed hg hvs]
  · rw [State.seq_afterRst, State.seq_afterRst]

end Rst

end Sys2Proof.Machine
end

section
/-! SUPPORT. TICK (42_heartbeat_and_system.md R160, R161): what it does and leaves, and the count modulo the
threshold. -/

namespace Sys2Proof.Machine

section Tick

variable {s t : State}

/-! ## The operation (R160) -/

theorem exec_tick_of_idle (hr : s.resetDone = true) (hidle : s.busy .main = false) :
    exec .tick s = .next s.countTick := by
  simp [exec, execTick, hr, hidle]

theorem exec_tick_of_busy (hr : s.resetDone = true) (hbusy : s.busy .main = true) : exec .tick s = .next s := by
  simp [exec, execTick, hold, hr, hbusy]

theorem State.countTick_of_reached (hT : s.cfg.T ≤ s.hb.toNat + 1) :
    s.countTick = State.give { s with hb := 0 } .main [frame .heartbeat] := by
  simp [State.countTick, hT]

theorem State.countTick_of_below (hT : s.hb.toNat + 1 < s.cfg.T) : s.countTick = { s with hb := s.hb + 1 } := by
  simp [State.countTick, Nat.not_le.2 hT, BitVec.ofNat_add]

/-- Settles O36: an idle M counts, at the threshold or below it; a busy one holds the operation. -/
theorem tickResult : Obligations.TickResult := by
  refine fun s hr => ⟨fun hidle hT => ⟨s.countTick, exec_tick_of_idle hr hidle, ?_⟩,
    fun hidle hT => ⟨s.countTick, exec_tick_of_idle hr hidle, ?_⟩, exec_tick_of_busy hr⟩
  · rw [State.countTick_of_reached hT]
    exact ⟨rfl, rfl, (State.busy_eq_false_iff.1 hidle).2⟩
  · rw [State.countTick_of_below hT]
    exact ⟨rfl, State.busy_eq_false_iff.1 hidle⟩

/-- TICK writes the counter and M's work, or, before the first RST, the marks. -/
theorem execTick_writes (h : execTick s = .next t) :
    ∃ c ts rs, t = { s with hb := c, main := ⟨ts, s.main.kick⟩, refusals := rs } ∧
      (s.resetDone = true → rs = s.refusals) := by
  obtain ⟨hr, e⟩ | ⟨-, -, e⟩ | ⟨-, -, e⟩ := execTick_cases s <;> cases e.symm.trans h
  · exact ⟨s.hb, s.main.work, (s.mark .noReset).refusals, rfl, fun hdone => by simp [hr] at hdone⟩
  · exact ⟨s.hb, s.main.work, s.refusals, rfl, fun _ => rfl⟩
  · obtain ⟨-, e⟩ | ⟨-, e⟩ := s.countTick_cases
    · exact ⟨0, [frame .heartbeat], s.refusals, e, fun _ => rfl⟩
    · exact ⟨BitVec.ofNat 16 (s.hb.toNat + 1), s.main.work, s.refusals, e, fun _ => rfl⟩

/-- Settles O37, by what TICK writes. -/
theorem tickFrame : Obligations.TickFrame := by
  intro s t h
  obtain ⟨c, ts, rs, rfl, hmarks⟩ := execTick_writes h
  exact ⟨⟨rfl, rfl, rfl, fun _ => ⟨rfl, rfl, rfl⟩⟩, fun _ => ⟨rfl, rfl, rfl⟩,
    ⟨rfl, rfl, rfl, rfl, rfl, rfl, rfl, rfl⟩, rfl, rfl, rfl, rfl, hmarks⟩

/-! ## Accepted TICKs (R161) -/

/-- An accepted TICK counts modulo the threshold, and emits a heartbeat where the count comes back to 0. -/
theorem exec_tick_counts (hr : s.resetDone = true) (hidle : s.busy .main = false) (hhb : s.HeartbeatOk)
    (hT : s.cfg.T ≤ 65535) :
    ∃ t, exec .tick s = .next t ∧ t.hb.toNat = (s.hb.toNat + 1) % s.cfg.T ∧
      t.work .main = if (s.hb.toNat + 1) % s.cfg.T = 0 then [frame .heartbeat] else [] := by
  obtain ⟨hreached, hbelow, -⟩ := tickResult s hr
  obtain hlt | heq : s.hb.toNat + 1 < s.cfg.T ∨ s.hb.toNat + 1 = s.cfg.T := Nat.lt_or_eq_of_le hhb
  · obtain ⟨t, hexec, hcount, hwork, -⟩ := hbelow hidle hlt
    have hfits : s.hb.toNat + 1 < 2 ^ 16 := by omega
    refine ⟨t, hexec, ?_, ?_⟩
    · rw [Nat.mod_eq_of_lt hlt, hcount]
      exact BitVec.toNat_add_of_lt hfits
    · rw [Nat.mod_eq_of_lt hlt, if_neg (Nat.succ_ne_zero _), hwork]
  · obtain ⟨t, hexec, hcount, hwork, -⟩ := hreached hidle heq.ge
    refine ⟨t, hexec, ?_, ?_⟩
    · rw [heq, Nat.mod_self, hcount]
      rfl
    · rw [heq, Nat.mod_self, if_pos rfl, hwork]
      rfl

/-- One more accepted TICK, after `n` of them have left the count at `n` modulo the threshold. -/
theorem acceptedTicks_succ {n : Nat} (h : acceptedTicks n s = .next t) (hr : t.resetDone = true) (hpos : 1 ≤ t.cfg.T)
    (hT : t.cfg.T ≤ 65535) (hhb : t.hb.toNat = n % t.cfg.T) :
    ∃ u, acceptedTicks (n + 1) s = .next u ∧ u.cfg = t.cfg ∧ u.resetDone = true ∧
      u.hb.toNat = (n + 1) % t.cfg.T ∧
      u.work .main = if (n + 1) % t.cfg.T = 0 then [frame .heartbeat] else [] := by
  obtain ⟨u, hexec, hcount, hwork⟩ :=
    exec_tick_counts (s := { t with main := Sequencer.idle }) hr rfl (hhb.trans_lt (Nat.mod_lt n hpos)) hT
  obtain ⟨-, -, ⟨hcfg, hdone, -⟩, -⟩ := tickFrame _ _ hexec
  have hmod : (t.hb.toNat + 1) % t.cfg.T = (n + 1) % t.cfg.T := by rw [hhb, Nat.mod_add_mod]
  refine ⟨u, andThen_next.2 ⟨t, h, hexec⟩, hcfg, hdone.trans hr, hcount.trans hmod, ?_⟩
  rw [← hmod]
  exact hwork

/-- From `hb = 0` the count after `n` accepted TICKs is `n` modulo the threshold. -/
theorem acceptedTicks_counts (hr : s.resetDone = true) (hhb : s.hb = 0) (hpos : 1 ≤ s.cfg.T)
    (hT : s.cfg.T ≤ 65535) (n : Nat) :
    ∃ t, acceptedTicks n s = .next t ∧ t.cfg = s.cfg ∧ t.resetDone = true ∧ t.hb.toNat = n % s.cfg.T := by
  induction n with
  | zero => exact ⟨s, rfl, rfl, hr, by simp [hhb]⟩
  | succ n ih =>
    obtain ⟨t, ht, hcfg, hdone, hcount⟩ := ih
    rw [← hcfg] at hpos hT hcount ⊢
    obtain ⟨u, hu, hcfgu, hdoneu, hcountu, -⟩ := acceptedTicks_succ ht hdone hpos hT hcount
    exact ⟨u, hu, hcfgu, hdoneu, hcountu⟩

/-- Settles O38: after `k` accepted TICKs the count is `k` modulo `T`, and the next one emits where it comes to 0. -/
theorem heartbeatEveryThreshold : Obligations.HeartbeatEveryThreshold := by
  intro k s hr hhb hpos hT
  obtain ⟨t, ht, hcfg, hdone, hcount⟩ := acceptedTicks_counts hr hhb hpos hT k
  rw [← hcfg] at hpos hT hcount ⊢
  obtain ⟨u, hu, -, -, hcountu, hworku⟩ := acceptedTicks_succ ht hdone hpos hT hcount
  exact ⟨u, hu, hcountu, hworku⟩

end Tick

end Sys2Proof.Machine
end

section
/-! SUPPORT. The choice of the next step and the taking of a presented word (60_exceptions.md R203 to R206): the plan,
the free policy, and a word that is run or held. -/

namespace Sys2Proof.Machine

variable {s t : State} {c : Choice} {k : Nat} {w : OpWord} {i : Instr}

/-! ## The free policy -/

theorem State.choose_of_free (hplan : s.plan = []) (hfree : s.policy = .free) : s.choose = s.freeChoiceStep := by
  simp [State.choose, hplan, hfree]

/-- Whatever the free value, it picks an entry of the list of enabled steps: it is reduced modulo the list's length. -/
theorem State.freeChoiceStep_cases (s : State) :
    (s.enabledChoices = [] ∧ s.freeChoiceStep = none) ∨
      ∃ c ∈ s.enabledChoices, ∃ t, s.freeChoiceStep = some (c, t) := by
  unfold State.freeChoiceStep
  split
  · next hnone => exact .inl ⟨hnone, rfl⟩
  · next c hone => exact .inr ⟨c, by simp [hone], s, rfl⟩
  · next c d cs hmany =>
    have hindex : Config.freeChoice s.draws % (c :: d :: cs).length < (c :: d :: cs).length :=
      Nat.mod_lt _ (by simp)
    refine .inr ⟨_, ?_, _, by rw [List.getElem?_eq_getElem hindex, Option.map_some]⟩
    rw [hmany]
    exact List.getElem_mem hindex

/-- Settles O19: the free policy takes an entry of the list of enabled steps, unless the list is empty. -/
theorem freePolicyTakesAnEnabledStep : Obligations.FreePolicyTakesAnEnabledStep := by
  intro s hplan hfree
  rw [State.choose_of_free hplan hfree]
  obtain ⟨hnil, hnone⟩ | ⟨c, hc, t, hsome⟩ := s.freeChoiceStep_cases
  · simp [hnil, hnone]
  · refine ⟨by simp [hsome, List.ne_nil_of_mem hc], fun c' t' h => ?_⟩
    obtain ⟨rfl, -⟩ : c = c' ∧ t = t' := by simpa [hsome] using h
    exact hc

/-! ## The plan -/

theorem State.choose_of_plan {cs : List Choice} (hplan : s.plan = c :: cs) :
    s.choose = some (c, { s with plan := cs }) := by
  simp [State.choose, hplan]

/-- Settles O18: the head of the plan is the choice. -/
theorem plannedStepIsTaken : Obligations.PlannedStepIsTaken :=
  fun _ _ _ hwf hplan => step_of_choose hwf (State.choose_of_plan hplan)

/-! ## Taking a word that decodes -/

theorem accept_of_run (hin : s.inbox[k]? = some (.word w)) (hdecode : decode s.cfg.G w = .ok i)
    (hfree : acceptHold i s = none) : accept k s = exec i (s.consume k) := by
  simp [accept, acceptWord, hin, hdecode, hfree]

theorem accept_of_held (hin : s.inbox[k]? = some (.word w)) (hdecode : decode s.cfg.G w = .ok i)
    (hheld : acceptHold i s ≠ none) : accept k s = .next s := by
  obtain ⟨r, hr⟩ := Option.ne_none_iff_exists'.1 hheld
  simp [accept, acceptWord, hold, hin, hdecode, hr]

/-- Settles O11: the chosen step is the taking of a word that decodes. -/
theorem stepRunsDecodedInstruction : Obligations.StepRunsDecodedInstruction := by
  intro s t k w i hwf hchoose hin hdecode
  rw [step_of_choose hwf hchoose]
  exact ⟨accept_of_run hin hdecode, accept_of_held hin hdecode⟩

/-- Settles O12: a placed word stands first in the inbox and its acceptance first in the plan, and taking it leaves
the state it was placed in. -/
theorem placedWordRunsNext : Obligations.PlacedWordRunsNext := by
  intro s nbits w i hwf hdecode hfree
  have hin : ({ s.withFetchWord nbits w with plan := s.plan } : State).inbox[0]? = some (.word (tableWord nbits w)) :=
    rfl
  have hholds : acceptHold i { s.withFetchWord nbits w with plan := s.plan } = acceptHold i s := by
    cases i <;> rfl
  calc step (s.withFetchWord nbits w)
      = accept 0 { s.withFetchWord nbits w with plan := s.plan } :=
        plannedStepIsTaken (s.withFetchWord nbits w) (.accept 0) s.plan hwf rfl
    _ = exec i (State.consume { s.withFetchWord nbits w with plan := s.plan } 0) :=
        accept_of_run hin hdecode (hholds.trans hfree)
    _ = exec i s := rfl

/-- An operation is held by its producer, once the first RST is done. -/
theorem acceptHold_ne_none_iff :
    acceptHold i s ≠ none ↔ ∃ p, acceptor i = some p ∧ s.resetDone = true ∧ s.busy p = true := by
  unfold acceptHold
  cases acceptor i <;> simp

/-- Settles O21: the hold is the busy producer's, and RST and TXC have no producer. -/
theorem acceptanceHeldIffBusy : Obligations.AcceptanceHeldIffBusy := by
  refine ⟨fun i s hr => ?_, fun _ => ⟨rfl, rfl⟩, fun _ _ _ => ⟨rfl, rfl, rfl⟩⟩
  simp only [acceptHold_ne_none_iff, hr, true_and]

end Sys2Proof.Machine
end

section
/-! SUPPORT. Progress and stall (60_exceptions.md R214, R215; 40_ring_buffer.md R111): what a producer still has to do
goes down with each of its steps, and without a completion a byte in flight stays. -/

namespace Sys2Proof.Machine

variable {s t : State} {p : Producer}

/-! ## Producers finish -/

/-- One producer's part of `State.debt`. -/
def Sequencer.debt (q : Sequencer) : Nat := 2 * q.work.flatten.length + q.kick.toNat

theorem State.debt_seq (s : State) (p : Producer) :
    (s.seq p).debt = 2 * (s.work p).flatten.length + (s.kickp p).toNat := rfl

theorem State.debt_eq_sum (s : State) : s.debt = (s.producers.map fun p => (s.seq p).debt).sum := rfl

/-- The debt goes down when one producer's does and the others' sequencers stay. -/
theorem State.debt_lt (hcfg : t.cfg = s.cfg) (hp : p ∈ s.producers) (hother : ∀ q, q ≠ p → t.seq q = s.seq q)
    (hless : (t.seq p).debt < (s.seq p).debt) : t.debt < s.debt := by
  have hproducers : t.producers = s.producers := by rw [State.producers, hcfg, State.producers]
  rw [State.debt_eq_sum, State.debt_eq_sum, hproducers]
  refine List.sum_lt_sum _ _ (fun q _ => ?_) ⟨p, hp, hless⟩
  by_cases hq : q = p
  · exact hq ▸ hless.le
  · rw [hother q hq]

/-- An enabled step is a P-KICK, or a P-ENQ that is not held. -/
theorem producerEnabled_cases (h : producerEnabled s p = true) :
    s.kickp p = true ∨
      (s.kickp p = false ∧ ∃ b bs ts, s.work p = (b :: bs) :: ts ∧ s.enqHold p = none) := by
  cases hk : s.kickp p with
  | true => exact .inl rfl
  | false =>
    rw [producerEnabled, hk, Bool.false_or] at h
    split at h
    · next b bs ts hw => exact .inr ⟨rfl, b, bs, ts, hw, by simpa using h⟩
    · exact absurd h (by simp)

/-- P-KICK pays for its KICK; the transaction it may end has no byte left. -/
theorem pKick_lowers_debt (hinv : s.Inv) (hp : p ∈ s.producers) (hk : s.kickp p = true) :
    ∃ t, producerStep p s = .next t ∧ t.debt < s.debt := by
  obtain ⟨⟨-, hlen⟩, ⟨-, ht, -⟩, -⟩ := hinv
  obtain ⟨u, hu⟩ := kick_goes_on ht
  obtain ⟨t, hstep, hkt, -, -, -, -, -, -, -, ⟨hcfg, -⟩, -, hother, -, hend, hmid, -⟩ :=
    pKickResult s u p hp hlen hk hu
  have hbytes : (t.work p).flatten = (s.work p).flatten := by
    by_cases hw : ∃ ts, s.work p = [] :: ts
    · obtain ⟨ts, hw⟩ := hw
      simp [(hend ts hw).1, hw]
    · rw [(hmid (not_exists.1 hw)).1]
  refine ⟨t, hstep, State.debt_lt hcfg hp hother ?_⟩
  simp [State.debt_seq, hbytes, hkt, hk]

/-- P-ENQ writes one of the bytes left, and owes one KICK for it. -/
theorem pEnq_lowers_debt (hinv : s.Inv) (hp : p ∈ s.producers) (hk : s.kickp p = false) {b : Byte} {bs : List Byte}
    {ts : List (List Byte)} (hw : s.work p = (b :: bs) :: ts) (hfree : s.enqHold p = none) :
    ∃ t, producerStep p s = .next t ∧ t.debt < s.debt := by
  obtain ⟨⟨-, hlen⟩, ⟨hh, -⟩, -⟩ := hinv
  obtain ⟨hlock, hroom⟩ := State.enqHold_none.1 hfree
  obtain ⟨-, -, hwrites⟩ := pEnqResult s p b bs ts hp hlen hk hw
  obtain ⟨t, hstep, -, -, -, hwt, hkt, -, -, -, -, -, -, ⟨hcfg, -⟩, -, hother, -⟩ :=
    hwrites hlock (State.full_eq_false_iff.1 hroom) hh
  refine ⟨t, hstep, State.debt_lt hcfg hp hother ?_⟩
  simp only [State.debt_seq, hwt, hkt, hw, hk, List.flatten_cons, List.cons_append, List.length_cons, Bool.toNat_true,
    Bool.toNat_false]
  omega

/-- Settles O51: the two kinds of enabled step each lower the debt by one. -/
theorem producerStepsLowerDebt : Obligations.ProducerStepsLowerDebt := by
  intro s p hinv hp henabled
  obtain hk | ⟨hk, b, bs, ts, hw, hfree⟩ := producerEnabled_cases henabled
  · exact pKick_lowers_debt hinv hp hk
  · exact pEnq_lowers_debt hinv hp hk hw hfree

/-! ## Without a completion -/

/-- With a byte in flight a KICK starts nothing, so only TXC and RST reach the consumer's side of the ring. -/
theorem Taken.consumer_eq_of_sending (h : Taken s t) (hs : s.sending = true) (htxc : s.runs ≠ some .txc)
    (hr : s.runs ≠ some .rst) : t.tail = s.tail ∧ t.sending = s.sending := by
  cases hk : s.nextKick with
  | none => exact h.tail_sending_eq hk htxc hr
  | some p =>
    cases h with
    | kicks q _ _ _ cs d is _ u hu e =>
      obtain ⟨hidle, -⟩ | ⟨-, rfl⟩ := kick_next hu
      · exact absurd (hidle.symm.trans hs) (by simp)
      · simp [e]
    | rests _ hkick | writes _ _ _ _ _ hkick | runs _ _ hkick => simp [hk] at hkick

/-- Settles O53: a hand-off with a byte in flight is TXC's. -/
theorem noCompletionNoProgress : Obligations.NoCompletionNoProgress := by
  intro s t hs h htxc hr
  obtain ⟨htail, hsending⟩ := (step_taken h).consumer_eq_of_sending hs htxc hr
  refine ⟨hsending.trans hs, htail, ?_⟩
  obtain hw | ⟨b, -, -, ⟨hidle, -⟩ | ⟨-, hruns⟩⟩ := noDoubleStart s t h
  · exact hw
  · exact absurd (hidle.symm.trans hs) (by simp)
  · exact absurd hruns htxc

end Sys2Proof.Machine
end

section
/-! SUPPORT. The block before the first RST, and TXC beside the producers (70_reset_and_hazards.md R240, R247,
R248). -/

namespace Sys2Proof.Machine

variable {s : State}

/-! ## Before the first RST -/

/-- A refusal mark is no part of the block, nor of its environment. -/
theorem State.mark_frame (s : State) (r : RefusalKind) :
    SameRing s (s.mark r) ∧ SameMonitors s (s.mark r) ∧ SameInputs s (s.mark r) :=
  ⟨⟨rfl, rfl, rfl, fun _ => ⟨rfl, rfl, rfl⟩⟩, fun _ => ⟨rfl, rfl, rfl⟩,
    ⟨rfl, rfl, rfl, rfl, rfl, rfl, rfl, rfl⟩⟩

/-- PCHG asks for its group before it asks for a reset, so well-formedness is needed there. -/
theorem exec_of_not_resetDone {i : Instr} (hr : s.resetDone = false) (hrst : i ≠ .rst)
    (hwf : i.wf s.cfg.G = true) : exec i s = .next (s.mark .noReset) := by
  cases i with
  | rst => exact absurd rfl hrst
  | enq b => exact if_pos hr
  | pchg g v =>
    have hgroup : ¬ s.cfg.G ≤ groupIndex g := Nat.not_le.2 (of_decide_eq_true hwf)
    exact (if_neg hgroup).trans (if_pos hr)
  | tick => exact if_pos hr
  | txc => exact if_pos hr

/-- Settles O17: the refusal is a mark, and a mark changes nothing of the block. -/
theorem operationsBeforeFirstResetRefused : Obligations.OperationsBeforeFirstResetRefused :=
  fun s _ hr hrst hwf => ⟨exec_of_not_resetDone hr hrst hwf, s.mark_frame .noReset⟩

/-! ## TXC and the producers -/

section WithProducers

variable (s) (m : Sequencer) (ms : List Monitor) (o : Option Producer)

/-- `s` with the producers' state and the lock's owner replaced. -/
def State.withProducers : State := { s with main := m, mon := ms, owner := o }

/-- The hand-off reads the ring alone. -/
theorem handOff_withProducers :
    handOff (s.withProducers m ms o) = andThen (handOff s) fun t => .next (t.withProducers m ms o) := by
  unfold handOff
  have hread : (s.withProducers m ms o).memRead (s.withProducers m ms o).tail = s.memRead s.tail := rfl
  rw [hread]
  cases s.memRead s.tail <;> rfl

/-- Each test of TXC (the first RST, a byte in flight, an empty ring) is one of the ring's. -/
theorem execTxc_withProducers :
    execTxc (s.withProducers m ms o) = andThen (execTxc s) fun t => .next (t.withProducers m ms o) := by
  have hdone : (s.withProducers m ms o).resetDone = s.resetDone := rfl
  have hsending : (s.withProducers m ms o).sending = s.sending := rfl
  have hempty : (s.withProducers m ms o).empty = s.empty := rfl
  unfold execTxc transmitComplete
  rw [hdone, hsending, hempty]
  split_ifs
  · rfl
  · rfl
  · exact handOff_withProducers s m ms o
  · rfl

end WithProducers

/-- Settles O41: TXC has no producer to be held by, and reads none. -/
theorem txcIgnoresProducers : Obligations.TxcIgnoresProducers :=
  fun s m ms o => ⟨rfl, execTxc_withProducers s m ms o⟩

end Sys2Proof.Machine
end

section
/-! SUPPORT. The decoder's test vectors (95_test_vectors.md 2.1). -/

namespace Sys2Proof

/-- Settles O9: an accepted word is its operation's own, which decodes back to it; a refused word meets, by its
fields, the condition that 30_encoding.md R73 gives for its refusal. -/
theorem specWordsDecode : Obligations.SpecWordsDecode := by
  have hok {w : OpWord} {i : Instr} (hw : encode i = w) (hwf : i.wf 3 = true) : decode 3 w = .ok i :=
    decode_eq_ok_iff.2 ⟨hw, hwf⟩
  have hbadField : decode 3 0x1100 = .error .badField := by
    obtain ⟨-, -, -, -, -, -, hiff, -⟩ := decoderIsTheTable 3 0x1100
    exact hiff.2 (.inl ⟨.inl rfl, .inl (by decide)⟩)
  have hbadGroup : decode 3 0x33FF = .error .badGroup := by
    obtain ⟨-, -, -, -, -, -, -, hiff, -⟩ := decoderIsTheTable 3 0x33FF
    exact hiff.2 ⟨rfl, by decide⟩
  have hreserved : decode 3 0x0000 = .error .reservedOp := by
    obtain ⟨-, -, -, -, -, hiff, -⟩ := decoderIsTheTable 3 0x0000
    exact hiff.2 (.inl rfl)
  exact ⟨hok rfl rfl, hok rfl rfl, hok rfl rfl, hok rfl rfl, hok rfl rfl, hbadField, hbadGroup, hreserved⟩

end Sys2Proof
end
